-- ==== Sys2Proof/Word.lean ====
section
/-! DEFINITION. The widths of the block's values (00_scope.md rules R9, R10) and the two values of the
Acknowledgment Flag, which is an operand of READ_BYTE (10_state.md rule R17). -/

namespace Sys2Proof

/-- The Transfer Byte: "an 8-bit value shifted across the bus" (10_state.md rule R14). -/
abbrev Byte := BitVec 8

/-- `PN`, `PS`, `IDX`, `ADDR` and `PTR` are 16 bits (00_scope.md rule R9). A host address is `HOST_AW`
bits, a parameter of the instance, and is held as a number (assumption log 4). -/
abbrev Word := BitVec 16

/-- The Acknowledgment Flag: TERMINATE ("this is the last byte") is 0, CONTINUE ("more bytes follow")
is 1 (10_state.md rule R17). -/
inductive AckFlag where
  | term
  | cont
  deriving DecidableEq, Repr, Inhabited

/-- The bit that stands for an Acknowledgment Flag in the command byte (30_encoding.md rule R58). -/
def AckFlag.toBit : AckFlag → BitVec 1
  | .term => 0
  | .cont => 1

end Sys2Proof
end

