-- ==== Sys2Proof/Syntax.lean ====
section
/-! DEFINITION. The seven commands of the block, one constructor per row of spec/opcode_table.json
(00_scope.md rule R7; 30_encoding.md rules R59, R60). -/

namespace Sys2Proof

/-- A command. Only READ_BYTE has an operand in its encoding, the `a` bit; every other operand is
taken from a register sampled at launch (30_encoding.md rule R60). -/
inductive Instr where
  /-- INIT, 40_bus_transport.md rule R75. -/
  | init
  /-- START, 40_bus_transport.md rule R76. -/
  | start
  /-- STOP, 40_bus_transport.md rule R77. -/
  | stop
  /-- WRITE_BYTE, 40_bus_transport.md rule R78. -/
  | writeByte
  /-- READ_BYTE with its Acknowledgment Flag, 40_bus_transport.md rule R79. -/
  | readByte (k : AckFlag)
  /-- READ_PAGE, 41_page_client.md rule R93. -/
  | readPage
  /-- WRITE_PAGE, 41_page_client.md rule R94. -/
  | writePage
  deriving DecidableEq, Repr

end Sys2Proof
end

