-- ==== Sys2Proof/Machine/Outside.lean ====
section
/-! DEFINITION. What the block shares with the outside: bus events, the environment's answers to a
handshake, the host's register accesses, and what can arrive while no handshake is outstanding
(00_scope.md rules R8, R11, R12; 70_reset_and_hazards.md rule R151). -/

namespace Sys2Proof.Machine

/-- The acknowledgment that follows a byte (30_encoding.md rule R65). -/
inductive Ack where
  | ack
  | nak
  deriving DecidableEq, Repr, Inhabited

/-- A bus event (00_scope.md rule R12). -/
inductive Event where
  /-- `S`: a start condition, completed. -/
  | s
  /-- `P`: a stop condition, completed. -/
  | p
  /-- `W(b, a)`: the controller shifted out `b`, the receiver answered `a`. -/
  | w (b : Byte) (a : Ack)
  /-- `R(b, k)`: the controller shifted in `b` and drove acknowledgment `k`. -/
  | r (b : Byte) (k : Ack)
  /-- `RF(k)`: an inbound byte requested with acknowledgment `k`, given up at the retry budget. -/
  | rf (k : Ack)
  /-- `S?`: a start condition that never completed. -/
  | sHung
  /-- `P?`: a stop condition that never completed. -/
  | pHung
  /-- `W?(b)`: an outbound byte that never completed. -/
  | wHung (b : Byte)
  deriving DecidableEq, Repr

/-- Is this one of the unfinished events, after which the controller is hung? -/
def Event.unfinished : Event → Bool
  | .sHung | .pHung | .wHung _ => true
  | .s | .p | .w _ _ | .r _ _ | .rf _ => false

/-- What an unbounded handshake sends: START, STOP or WRITE_BYTE (40_bus_transport.md rule R74). -/
inductive Outbound where
  | start
  | stop
  | byte (b : Byte)
  deriving DecidableEq, Repr

/-- Who answers on the wires when a handshake completes. -/
inductive Answer where
  /-- The reference device of 20_memory.md rule R48 does (or nobody, while it is unpowered). -/
  | device
  /-- Something else: the acknowledgment an outbound byte gets, and the byte an inbound transfer
  delivers, are these; the reference device takes no part (assumption log 1). -/
  | other (b : Byte) (a : Ack)
  deriving DecidableEq, Repr, Inhabited

/-- How the wait for one handshake ends: "only the environment's completion of a handshake, the
exhaustion of the retry budget, or reset does" (70_reset_and_hazards.md rule R151). -/
inductive Reply where
  /-- The handshake completes; for an inbound byte, `polls` tests of `DONE` find it 0 first (the
  natural number `d` of 00_scope.md rule R11). An unbounded handshake does not look at `polls`. -/
  | complete (polls : Nat) (answer : Answer)
  /-- It never completes (`OracleComplete = false`, or `d = ∞`). `reached` says whether the device
  saw the event all the same (assumption log 14). -/
  | never (reached : Bool)
  /-- The platform asserts the reset input during the wait (70_reset_and_hazards.md rule R128). -/
  | reset (reached : Bool)
  deriving DecidableEq, Repr, Inhabited

/-- One access of the host to the block's registers: its width in bits, and a 5-bit offset
(10_state.md rules R25, R30). -/
inductive Access where
  | rd (width : Nat) (off : BitVec 5)
  | wr (width : Nat) (off : BitVec 5) (v : BitVec width)
  deriving DecidableEq, Repr

/-- What can happen between two primitives of a page command, when `BUSY = 1` and no handshake is
outstanding (10_state.md rules R16, R28; assumption log 18). -/
inductive Interlude where
  /-- The host accesses a register. -/
  | access (a : Access)
  /-- A transfer that an earlier READ_BYTE gave up completes after all (10_state.md rule R31). -/
  | late
  /-- The platform asserts the reset input (70_reset_and_hazards.md rule R128). -/
  | reset
  /-- The next primitive begins; what stands behind belongs to later moments. -/
  | go
  deriving DecidableEq, Repr

/-- What happens, in order, while a command runs: while the controller waits for a handshake, the host
may access a register (10_state.md rule R28), and the environment answers; between two primitives
of a page command there are interludes. -/
inductive Happening where
  | access (a : Access)
  | reply (r : Reply)
  | between (x : Interlude)
  deriving DecidableEq, Repr

/-- What can arrive while no handshake is outstanding. -/
inductive Input where
  /-- The host accesses a register; a write to `CMD` launches a command (10_state.md rule R27). -/
  | access (a : Access)
  /-- The host stores a byte in its own memory, where its page buffers are (10_state.md rule R33). -/
  | store (addr : Nat) (b : Byte)
  /-- The platform asserts the reset input (70_reset_and_hazards.md rule R125). -/
  | reset
  /-- The power gate of the external device is switched (60_exceptions.md rule R120). -/
  | gate (on : Bool)
  /-- An inbound transfer whose READ_BYTE timed out completes after all (10_state.md rule R31). -/
  | lateCompletion
  deriving DecidableEq, Repr

/-- The frame position of the reference device (20_memory.md rule R48). -/
inductive Phase where
  | idle
  | sla
  | ah
  | al
  | wr
  | rd
  | deaf
  deriving DecidableEq, Repr, Inhabited

end Sys2Proof.Machine
end

