-- ==== Sys2Proof/Config.lean ====
section
/-! DEFINITION. What the instance fixes (00_scope.md rule R9) and the free values: opaque constants
with no body, so that no proof can rest on a value of theirs (00_scope.md rule R11, `any_N` and the
oracles). -/

namespace Sys2Proof

/-- `DEV_ADDR7`, the 7-bit bus address of the target device, hardwired (10_state.md rule R23). -/
def Config.devAddr7 : BitVec 7 := 0x50

/-- The default of `RETRY_BUDGET`, "100,000 poll iterations in the source" (00_scope.md rule R9). -/
def Config.retryBudgetDefault : BitVec 32 := 100000

/-- The default of `HOST_AW`, the width of a host address (00_scope.md rule R9). -/
def Config.hostAwDefault : Nat := 16

/-- The register file occupies offsets `0x00` to `0x10` of its base (10_state.md rule R25; vector V47). -/
def Config.regSpan : Nat := 0x11

/-- `F_CORE`, the core oscillator frequency: no value in the spec (00_scope.md rule R9). -/
opaque Config.fCore : Nat

/-- `F_BUS`, the target bus clock rate: no value in the spec (00_scope.md rule R9). -/
opaque Config.fBus : Nat

/-- The fixed function that turns the two frequencies into the timing configuration; not in the spec
(00_scope.md rule R9, 70_reset_and_hazards.md rule R144). -/
opaque Config.timingOf : Nat → Nat → Byte

/-- `TIMING_VALUE`, "an opaque constant of width 8 bits" (10_state.md rule R22). -/
def Config.timingValue : Byte := Config.timingOf Config.fCore Config.fBus

/-- The environment's answer to the `n`-th handshake for which State scripts none: the oracles
`OracleComplete`, `OracleRead` and `OracleAck` together (00_scope.md rule R11; assumption log 1). -/
opaque Config.oracleReply : Nat → Machine.Reply

/-- `any_8`, a fresh draw for each `n` (00_scope.md rule R11; assumption log 11). -/
opaque Config.anyByte : Nat → Byte

/-- A 16-bit draw: the device's current address, and the address its frame was given, after power-off
(assumption log 15). -/
opaque Config.anyWord : Nat → Word

/-- The device's frame position after power-off, a draw (assumption log 15). -/
opaque Config.anyPhase : Nat → Machine.Phase

/-- Whether the device's current address counts as past its end after power-off, a draw (assumption
log 15). -/
opaque Config.anyFlag : Nat → Bool

/-- The byte that the `n`-th stray write has left at a device address, any value
(93_implementation_defined.md U7; assumption log 10). -/
opaque Config.strayByte : Nat → Word → Byte

end Sys2Proof
end

