-- ==== Sys2Proof/WellFormed.lean ====
section
/-! DEFINITION. Which terms are well formed: every command is (its one operand has two values, both
legal), and a host access is well formed when 10_state.md rule R25 lists its offset with its width. -/

namespace Sys2Proof

/-- Every term of `Instr` is a command of 30_encoding.md rule R59: the only operand, the `a` bit of
READ_BYTE, may be either value, so there is no ill-formed command term. -/
def Instr.wellFormed : Instr → Bool
  | .init | .start | .stop | .writeByte | .readByte _ | .readPage | .writePage => true

/-- The offsets that hold a register of each fixed width, and the one that holds a host address
(10_state.md rule R25). -/
def offsets8 : List (BitVec 5) := [0x00, 0x01, 0x02, 0x03, 0x10]
def offsets16 : List (BitVec 5) := [0x04, 0x06, 0x0A]
def offsets32 : List (BitVec 5) := [0x0C]
def offsetsHost : List (BitVec 5) := [0x08]

/-- Is an access of this width legal at this offset, where a host address has `hostAw` bits? -/
def legalWidth (hostAw width : Nat) (off : BitVec 5) : Bool :=
  decide (width = 8) && offsets8.contains off || decide (width = 16) && offsets16.contains off ||
    decide (width = 32) && offsets32.contains off || decide (width = hostAw) && offsetsHost.contains off

/-- "Each register is accessed at its own width in one access; an access of another width, or at an
offset not in the table, is `refuse`" (10_state.md rule R25). -/
def Machine.Access.wellFormed (hostAw : Nat) : Machine.Access → Bool
  | .rd width off | .wr width off _ => legalWidth hostAw width off

end Sys2Proof
end

