-- ==== Sys2Proof/Decode.lean ====
section
/-! DEFINITION. The command byte (30_encoding.md rules R58, R59, R61, R68): the opcode of each
command, the decoder, total on all 256 bytes and rejecting by name, and the encoder. -/

namespace Sys2Proof

/-- Why a command byte is reserved (30_encoding.md rule R68). -/
inductive Reserved where
  /-- Bits 7:5 are not `000`. -/
  | zeroField
  /-- The `op` value is none of rule R59's. -/
  | opcode
  /-- `a = 1` on a command other than READ_BYTE. -/
  | ackBit
  deriving DecidableEq, Repr

/-- The `op` field of a command (30_encoding.md rule R59). -/
def opcodeOf : Instr → BitVec 4
  | .init => 0b0001
  | .start => 0b0010
  | .stop => 0b0011
  | .writeByte => 0b0100
  | .readByte _ => 0b0101
  | .readPage => 0b1000
  | .writePage => 0b1001

/-- The `a` field of a command: 0 in every command but READ_BYTE (30_encoding.md rule R58). -/
def ackBitOf : Instr → BitVec 1
  | .readByte k => k.toBit
  | .init | .start | .stop | .writeByte | .readPage | .writePage => 0

/-- The three fields of a command byte (30_encoding.md rule R58). -/
def zeroField (b : Byte) : BitVec 3 := b.extractLsb' 5 3
def ackField (b : Byte) : BitVec 1 := b.extractLsb' 4 1
def opField (b : Byte) : BitVec 4 := b.extractLsb' 0 4

/-- A command without operand: `a` must be 0 (30_encoding.md rules R58, R61). -/
def plain (i : Instr) (b : Byte) : Except Reserved Instr :=
  if ackField b = 0 then .ok i else .error .ackBit

/-- READ_BYTE takes its Acknowledgment Flag from `a`: 1 CONTINUE, 0 TERMINATE. -/
def readByteOf (b : Byte) : Instr :=
  if ackField b = 1 then .readByte .cont else .readByte .term

/-- The decoder, by the tests of 30_encoding.md rule R61 in its order: `zero`, then `op`, then `a`. -/
def decode (b : Byte) : Except Reserved Instr :=
  if zeroField b ≠ 0 then .error .zeroField
  else if opField b = 0b0001 then plain .init b
  else if opField b = 0b0010 then plain .start b
  else if opField b = 0b0011 then plain .stop b
  else if opField b = 0b0100 then plain .writeByte b
  else if opField b = 0b0101 then .ok (readByteOf b)
  else if opField b = 0b1000 then plain .readPage b
  else if opField b = 0b1001 then plain .writePage b
  else .error .opcode

/-- The command byte of a command: `000 ++ a ++ op` (30_encoding.md rule R58). -/
def encode (i : Instr) : Byte := (0 : BitVec 3) ++ ackBitOf i ++ opcodeOf i

/-- The host's reading of one opcode-table row. Every row is one byte (30_encoding.md rule R61), so
bits above the low eight are no part of a command. -/
def decodeTableWord (_nbits w : Nat) : Option Instr :=
  match decode (BitVec.ofNat 8 w) with
  | .ok i => some i
  | .error _ => none

end Sys2Proof
end

