-- ==== Sys2Proof/Machine/State.lean ====
section
/-! DEFINITION. The machine's state as plain data: every element of 10_state.md, the host buffer, the
reference device of 20_memory.md rule R48, and the schedule of outside happenings; the reasons a step
stops; the state after reset (10_state.md rule R32). -/

namespace Sys2Proof.Machine

/-- A byte space: address and byte, in the canonical form `Memory.wf`. -/
abbrev Memory := List Host.Cell

/-- The Operation Result: Success is 0, Failure is 1 (10_state.md rule R18). -/
inductive OpResult where
  | success
  | failure
  deriving DecidableEq, Repr

/-- The registers that hold no value before they are first written (10_state.md rule R32). -/
inductive RegName where
  | data
  | pn
  | ps
  | buf
  | addr
  | timing
  deriving DecidableEq, Repr

/-- The block's one exception (60_exceptions.md rules R105, R108). -/
inductive Fault where
  /-- Bus Timeout, raised by READ_BYTE and by READ_PAGE through it, with the byte index inside a page
  command and none by hand. The spec gives its whole effect (60_exceptions.md rule R107), so it is
  TAKEN: a next state, with the exception kept in the history `raised`. No step ends in it, which is
  safe. -/
  | busTimeout (index : Option Word)
  deriving DecidableEq, Repr

/-- Where the spec gives an input no meaning (60_exceptions.md rule R115). Every refusal is safe: no
claim about a next state can be made of it. -/
inductive Refusal where
  /-- Kept for an instruction without a meaning; no arm of `exec` uses it. -/
  | notModelled (mnemonic : String)
  /-- A reserved command byte, with the decoder's reason (30_encoding.md rule R68, U11); raised by a
  `CMD` write while idle. -/
  | reservedCommand (why : Reserved)
  /-- START, STOP, WRITE_BYTE or READ_BYTE before any INIT (40_bus_transport.md rule R83, U8). -/
  | notInitialised
  /-- STOP, WRITE_BYTE or READ_BYTE with no frame open (40_bus_transport.md rule R83, U9). -/
  | noFrame
  /-- A command or host access reads a register that holds no value (10_state.md rule R32, U10). -/
  | noValue (reg : RegName)
  /-- A page command with `PS = 0` (41_page_client.md rule R92, U6). -/
  | zeroPageSize
  /-- A page buffer that overlaps the block's registers (20_memory.md rule R56, U13). -/
  | bufferOverlapsRegisters
  /-- A host access of the wrong width or at no register's offset (10_state.md rule R25, U12). -/
  | badAccess
  /-- A host read of a register other than `STATUS` while `BUSY = 1` (92_eei_decisions.md D6, U14). -/
  | readWhileBusy
  /-- The host stores to memory while a page command owns the buffer: the host "never does"
  (70_reset_and_hazards.md rule R151; assumption log 16). -/
  | bufferOwned
  deriving DecidableEq, Repr

/-- Which of the registers without a reset value have been written since reset (10_state.md rule R32,
41_page_client.md rule R92). -/
structure Written where
  data : Bool
  pn : Bool
  ps : Bool
  buf : Bool
  addr : Bool
  deriving DecidableEq, Repr

/-- The reference device (20_memory.md rule R48), with the power gate that feeds it
(60_exceptions.md rule R120). -/
structure Device where
  /-- `MEM`: the contents at every address, or, after a stray write, at the settled ones. -/
  mem : Memory
  /-- `PTR`, the current address, kept across frames. -/
  ptr : Word
  /-- `PH`, the frame position. -/
  ph : Phase
  /-- Whether the device is there and powered. -/
  powered : Bool
  /-- `DEV_SPACE`, the device's size in bytes. -/
  space : Nat
  /-- `DEV_WINDOW`, the single-transaction addressing window; 0 when there is none. -/
  window : Nat
  /-- The address the frame in progress was given, which fixes its window. -/
  start : Word
  /-- `PTR` has run past the end of the device since an address was last given (U7). -/
  astray : Bool
  /-- How many writes fell outside the range in which the device is defined; after each, its contents
  are any value until written again (U7; assumption log 10). -/
  strays : Nat
  /-- The addresses written inside the range since the last stray write, rising; empty while there has
  been none. -/
  settled : List Nat
  deriving DecidableEq, Repr

/-- The machine: controller, host and environment (00_scope.md rule R8). -/
structure State where
  /-- `DATA`, the Transfer Byte (10_state.md rule R14). -/
  data : Byte
  /-- `PN`, operand `page_number`. -/
  pn : Word
  /-- `PS`, operand `page_size`. -/
  ps : Word
  /-- `BUF`, host address of byte 0 of the caller's page buffer, `HOST_AW` bits. -/
  buf : Nat
  /-- `ADDR`, the translated byte address of the current or last page command. -/
  addr : Word
  /-- Which of the five registers above hold a value. -/
  written : Written
  /-- `OP`, the command in progress, or NONE (10_state.md rule R15). -/
  op : Option (BitVec 4)
  /-- `SEQ`, the step of a page command. -/
  seq : BitVec 3
  /-- `IDX`, the index of the page byte being transferred. -/
  idx : Word
  /-- `DONE`, the hardware completion flag (10_state.md rule R16). -/
  done : Bool
  /-- `ACKF`, the Acknowledgment Flag (10_state.md rule R17). -/
  ackf : AckFlag
  /-- `RESULT`, the Operation Result (10_state.md rule R18). -/
  result : OpResult
  /-- `BUSY` (10_state.md rule R19). -/
  busy : Bool
  /-- `INFRAME` (10_state.md rule R20). -/
  inframe : Bool
  /-- `INITED` (10_state.md rule R21). -/
  inited : Bool
  /-- `CFG_TIMING` (10_state.md rule R22). -/
  cfgTiming : Byte
  /-- `RETRY_BUDGET`, a constant of the instance (10_state.md rule R24). -/
  retryBudget : BitVec 32
  /-- `CNT`, the poll counter (10_state.md rule R24). -/
  cnt : BitVec 32
  /-- `TRACE`, the bus events since reset, oldest first (00_scope.md rule R12). -/
  trace : List Event
  /-- The exceptions raised since reset, oldest first (60_exceptions.md rule R106). -/
  raised : List Fault
  /-- An inbound transfer outlived its READ_BYTE (10_state.md rule R31 item 3). -/
  late : Bool
  /-- `HOST_AW`, the width of a host address, an instance parameter (00_scope.md rule R9). -/
  hostAw : Nat
  /-- Host address of the register file, an instance parameter (10_state.md rule R25). -/
  regBase : Nat
  /-- The host buffer space (10_state.md rule R30). -/
  hostMem : Memory
  /-- The values the host's register reads gave it, oldest first (assumption log 2). -/
  hostReads : List Nat
  /-- The external device. -/
  dev : Device
  /-- What arrives next while no handshake is outstanding (assumption log 2). -/
  inputs : List Input
  /-- What happens next while handshakes are outstanding (assumption log 1). -/
  env : List Happening
  /-- How many free values have been drawn (assumption log 1). -/
  draws : Nat
  deriving DecidableEq, Repr

/-- The device as the environment holds it when the block leaves reset; the launch premises of
20_memory.md rule R51 (assumption log 9). -/
def Device.atReset : Device where
  mem := []
  ptr := 0
  ph := .idle
  powered := true
  space := 65536
  window := 0
  start := 0
  astray := false
  strays := 0
  settled := []

/-- No register without a reset value has been written (10_state.md rule R32). -/
def Written.none : Written where
  data := false
  pn := false
  ps := false
  buf := false
  addr := false

/-- The machine right after reset (10_state.md rule R32, 70_reset_and_hazards.md rule R126). The
contents of the registers that hold no value are 0 and cannot be read (assumption log 3). -/
def State.reset : State where
  data := 0
  pn := 0
  ps := 0
  buf := 0
  addr := 0
  written := Written.none
  op := .none
  seq := 0
  idx := 0
  done := false
  ackf := .term
  result := .success
  busy := false
  inframe := false
  inited := false
  cfgTiming := 0
  retryBudget := Config.retryBudgetDefault
  cnt := 0
  trace := []
  raised := []
  late := false
  hostAw := Config.hostAwDefault
  regBase := 0
  hostMem := []
  hostReads := []
  dev := Device.atReset
  inputs := []
  env := []
  draws := 0

end Sys2Proof.Machine
end

