-- ==== Sys2Proof/Machine/Ops.lean ====
section
/-! DEFINITION. The named operations over memory, history and registers: canonical byte memory, free
values, the start and the end of a command, reset, and taking the one exception. -/

namespace Sys2Proof.Machine

/-! ## Byte memory -/

/-- What an address that is not listed reads as, in the host buffer space and in the device: the spec
gives neither space contents (10_state.md rule R33, 20_memory.md rule R51; assumption log 8). -/
def Memory.blank : Byte := 0x00

/-- The byte at an address. -/
def Memory.read (m : Memory) (a : Nat) : Byte :=
  match m with
  | [] => Memory.blank
  | (k, v) :: rest => if k = a then v else Memory.read rest a

/-- The memory with one byte replaced, in canonical form again: an entry that would equal
`Memory.blank` is not listed. -/
def Memory.write (m : Memory) (a : Nat) (b : Byte) : Memory :=
  match m with
  | [] => if b = Memory.blank then [] else [(a, b)]
  | (k, v) :: rest =>
    if a < k then
      if b = Memory.blank then (k, v) :: rest else (a, b) :: (k, v) :: rest
    else if a = k then
      if b = Memory.blank then rest else (k, b) :: rest
    else (k, v) :: Memory.write rest a b

/-- Every entry of a memory lies at or above `low`, in strictly rising order, below `size`, and none
equals what an unlisted address reads as. -/
def Memory.wfFrom (size : Nat) : Nat → Memory → Bool
  | _, [] => true
  | low, (k, v) :: rest =>
    decide (low ≤ k) && decide (k < size) && decide (v ≠ Memory.blank) &&
      Memory.wfFrom size (k + 1) rest

/-- The canonical form of a memory of `size` bytes, so that equal memories are equal data. -/
def Memory.wf (size : Nat) (m : Memory) : Bool := Memory.wfFrom size 0 m

/-! ## The host buffer space -/

/-- The size of the host's address space in bytes, `2^HOST_AW` (10_state.md rule R30). -/
def hostSize (s : State) : Nat := 2 ^ s.hostAw

/-- A host address is `HOST_AW` bits: sums wrap modulo `2^HOST_AW` (20_memory.md rule R56). -/
def hostAddress (a : Nat) (s : State) : Nat := a % hostSize s

/-- `MemRead(addr, 1)` of 00_scope.md rule R11. -/
def memRead (a : Nat) (s : State) : Byte := Memory.read s.hostMem (hostAddress a s)

/-- `MemWrite(addr, 1, b)` of 00_scope.md rule R11. -/
def memWrite (a : Nat) (b : Byte) (s : State) : State :=
  { s with hostMem := Memory.write s.hostMem (hostAddress a s) b }

/-! ## Free values and the event history -/

/-- A fresh `any_8` (00_scope.md rule R11: "Two draws are independent"). -/
def anyByte (s : State) : Byte := Config.anyByte s.draws

/-- The state after one draw. -/
def drawn (s : State) : State := { s with draws := s.draws + 1 }

/-- `BusEmit(e)` of 00_scope.md rule R11: append to `TRACE`. -/
def emit (e : Event) (s : State) : State := { s with trace := s.trace ++ [e] }

/-- `for j = from .. : MemWrite(.., any_8)`: `n` bytes from `a` become draws, one independent draw
each (41_page_client.md rule R98). -/
def scribble : Nat → Nat → State → State
  | 0, _, s => s
  | n + 1, a, s => scribble n (a + 1) (drawn (memWrite a (anyByte s) s))

/-! ## Registers -/

/-- `DATA <- b`; from then on `DATA` holds a value. -/
def setData (b : Byte) (s : State) : State :=
  { s with data := b, written := { s.written with data := true } }

/-- `SEQ <- n` (00_scope.md rule R11). -/
def setSeq (n : BitVec 3) (s : State) : State := { s with seq := n }

/-- `IDX <- n` (00_scope.md rule R11). -/
def setIdx (n : Word) (s : State) : State := { s with idx := n }

/-- Launching a command: `OP` is latched and `BUSY` set (10_state.md rule R27). The operand registers
cannot change while `BUSY = 1`, so they are their own latches. -/
def launch (i : Instr) (s : State) : State := { s with busy := true, op := some (opcodeOf i) }

/-- "When the command ends, `BUSY <- 0` and `OP <- NONE`, `SEQ <- 0`" (10_state.md rule R27). -/
def finish (s : State) : State := { s with busy := false, op := none, seq := 0 }

/-! ## Reset -/

/-- The reset input: every element of the block at its value of 10_state.md rule R32, at once,
whatever the block was doing (70_reset_and_hazards.md rules R125, R128). The instance parameters, the
host and its memory, and the environment are not changed (rule R127). -/
def takeReset (s : State) : State :=
  { State.reset with
    retryBudget := s.retryBudget
    hostAw := s.hostAw
    regBase := s.regBase
    hostMem := s.hostMem
    hostReads := s.hostReads
    dev := s.dev
    inputs := s.inputs
    env := s.env
    draws := s.draws }

/-! ## The exception

There is no return from it: "There is no handler and so no return instruction, nothing to restore and
no nesting" (60_exceptions.md rule R112); control is back with the host. -/

/-- Taking Bus Timeout for the byte of index `i` (none when READ_BYTE was issued by hand), with `cnt`
polls made: the whole effect of 60_exceptions.md rule R107 but for the buffer, which READ_PAGE owns.
`INFRAME` is unchanged: no STOP is issued. -/
def takeBusTimeout (i : Option Word) (k : Ack) (cnt : BitVec 32) (s : State) : State :=
  { drawn (setData (anyByte s) (emit (.rf k) s)) with
    done := false
    cnt := cnt
    result := .failure
    raised := s.raised ++ [.busTimeout i] }

end Sys2Proof.Machine
end

