-- ==== Sys2Proof/Machine/Device.lean ====
section
/-! DEFINITION. The reference device of 20_memory.md rule R48, its power gate (60_exceptions.md rule
R120), and its behaviour outside its range, which is any value (93_implementation_defined.md U7). -/

namespace Sys2Proof.Machine

/-- Replace the device. -/
def setDev (d : Device) (s : State) : State := { s with dev := d }

/-- The device sees `S`: `PH <- SLA` from any position. -/
def devStart (s : State) : State :=
  if s.dev.powered then setDev { s.dev with ph := .sla } s else s

/-- The device sees `P`: `PH <- IDLE`; `PTR` is kept. -/
def devStop (s : State) : State :=
  if s.dev.powered then setDev { s.dev with ph := .idle } s else s

/-- `PTR <- PTR + 1`. Past the last address of the device nothing is defined (U7). -/
def Device.advance (d : Device) : Device :=
  { d with ptr := d.ptr + 1, astray := d.astray || decide (d.space ≤ d.ptr.toNat + 1) }

/-- Is the current address one at which the device is defined ("only while `PTR < DEV_SPACE`")? -/
def Device.inSpace (d : Device) : Bool := !d.astray && decide (d.ptr.toNat < d.space)

/-- Does the current address lie in the window of the address the frame was given ("a write frame
stays inside one `DEV_WINDOW`")? -/
def Device.inWindow (d : Device) : Bool :=
  decide (d.window = 0) || decide (d.ptr.toNat / d.window = d.start.toNat / d.window)

/-- The byte the device holds at an address: `MEM[a]`, or any value where a stray write may have
changed it and nothing has been written since (U7; assumption log 10). -/
def Device.content (d : Device) (a : Word) : Byte :=
  if decide (d.strays = 0) || d.settled.contains a.toNat then Memory.read d.mem a.toNat
  else Config.strayByte d.strays a

/-- A rising list of addresses with one more in it. -/
def settle (a : Nat) : List Nat → List Nat
  | [] => [a]
  | k :: rest => if a < k then a :: k :: rest else if a = k then k :: rest else k :: settle a rest

/-- 16-bit addresses in strictly rising order, at or above `low`. -/
def rising : Nat → List Nat → Bool
  | _, [] => true
  | low, a :: rest => decide (low ≤ a) && decide (a < 65536) && rising (a + 1) rest

/-- The canonical form of the device's contents. -/
def Device.wf (d : Device) : Bool :=
  Memory.wf 65536 d.mem && rising 0 d.settled && (decide (d.strays ≠ 0) || decide (d.settled = []))

/-- `MEM[PTR] <- b`. -/
def Device.put (b : Byte) (d : Device) : Device :=
  { d with
    mem := Memory.write d.mem d.ptr.toNat b
    settled := if d.strays = 0 then d.settled else settle d.ptr.toNat d.settled }

/-- A write outside the range: which contents it touches is open, so all of them are any value until
they are written again (U7; assumption log 10). -/
def Device.stray (d : Device) : Device :=
  { d with mem := [], strays := d.strays + 1, settled := [] }

/-- `W(b) in WR`: store and advance. -/
def Device.store (b : Byte) (d : Device) : Device :=
  if d.inSpace && d.inWindow then (d.put b).advance else d.stray.advance

/-- `b[7:1]` and `b[0]` of a device-address byte. -/
def addressPart (b : Byte) : BitVec 7 := b.extractLsb' 1 7
def intentBit (b : Byte) : BitVec 1 := b.extractLsb' 0 1

/-- The device takes an outbound byte and answers (20_memory.md rule R48). That a data byte outside the
device's range is answered `ACK` too, with `PH` still `WR`, is the model's choice: rule R48 and U7 leave
it open (assumption log 10). -/
def Device.take (b : Byte) (d : Device) : Device × Ack :=
  match d.ph with
  | .sla =>
    if addressPart b = Config.devAddr7 then
      if intentBit b = 0 then ({ d with ph := .ah }, .ack) else ({ d with ph := .rd }, .ack)
    else ({ d with ph := .deaf }, .nak)
  | .ah => ({ d with ptr := b ++ d.ptr.extractLsb' 0 8, ph := .al }, .ack)
  | .al =>
    ({ d with
        ptr := d.ptr.extractLsb' 8 8 ++ b
        start := d.ptr.extractLsb' 8 8 ++ b
        astray := false
        ph := .wr }, .ack)
  | .wr => (d.store b, .ack)
  | .idle | .rd | .deaf => (d, .nak)

/-- The device's part in an outbound byte: its new state, and its answer. An unpowered device does
not answer: `NAK` (20_memory.md rule R49). -/
def devWrite (b : Byte) (s : State) : State :=
  if s.dev.powered then setDev (s.dev.take b).1 s else s
def devAck (b : Byte) (s : State) : Ack :=
  if s.dev.powered then (s.dev.take b).2 else .nak

/-- Does an inbound transfer find a byte the device defines? -/
def devDefines (s : State) : Bool :=
  s.dev.powered && decide (s.dev.ph = .rd) && s.dev.inSpace

/-- The byte an inbound transfer delivers: `MEM[PTR]`, or any value where the device defines none. -/
def devByte (s : State) : Byte :=
  if devDefines s then s.dev.content s.dev.ptr else anyByte s

/-- The device's part in an inbound byte; where its byte was any value, one draw is used up. -/
def devRead (s : State) : State :=
  let t := if s.dev.powered ∧ s.dev.ph = .rd then setDev s.dev.advance s else s
  if devDefines s then t else drawn t

/-- The power gate: "the device's current address and frame position cannot be assumed to survive
power-off" (60_exceptions.md rule R123), so both are any value afterwards. That the same holds of the
address the frame was given (`start`) and of the past-the-end mark (`astray`), of which the spec says
nothing, that the contents are kept, and that switching on changes nothing but the power, is the
model's choice (assumption log 15). -/
def switchGate (on : Bool) (s : State) : State :=
  if on then setDev { s.dev with powered := true } s
  else
    drawn (drawn (setDev { s.dev with
      powered := false
      ptr := Config.anyWord s.draws
      ph := Config.anyPhase s.draws
      start := Config.anyWord (s.draws + 1)
      astray := Config.anyFlag s.draws } s))

end Sys2Proof.Machine
end

