-- ==== Sys2Proof/Machine/Flags.lean ====
section
/-! DEFINITION. The six flags (10_state.md rules R16 to R21) and how a primitive writes them, and the
`STATUS` register (rule R26). There are no arithmetic condition codes (rule R34). -/

namespace Sys2Proof.Machine

/-- A flag as one bit. -/
def flagBit (b : Bool) : BitVec 1 := if b then 1 else 0

/-- `RESULT`: 0 Success, 1 Failure (10_state.md rule R18). -/
def resultBit : OpResult → BitVec 1
  | .success => 0
  | .failure => 1

/-- `STATUS`: bits 7:5 read as 0, then `INITED`, `INFRAME`, `RESULT`, `DONE`, `BUSY` (10_state.md rule
R26). -/
def statusByte (s : State) : Byte :=
  (0 : BitVec 3) ++ flagBit s.inited ++ flagBit s.inframe ++ resultBit s.result ++ flagBit s.done ++
    flagBit s.busy

/-- The acknowledgment the controller drives for an inbound byte: acknowledge on CONTINUE,
no-acknowledge on TERMINATE (40_bus_transport.md rule R80). -/
def ackOf : AckFlag → Ack
  | .term => .nak
  | .cont => .ack

/-- Launching a bus primitive clears `DONE` (10_state.md rule R16), and with it any completion of an
earlier transfer that is still to come (70_reset_and_hazards.md rule R139). -/
def clearDone (s : State) : State := { s with done := false, late := false }

/-- A late completion sets `DONE`, if a transfer is still outstanding (10_state.md rules R16, R31;
assumption log 7). -/
def completeLate (s : State) : State :=
  if s.late then { s with done := true, late := false } else s

/-- The flags of an outbound primitive that completed (40_bus_transport.md rules R76, R77, R78). -/
def markComplete : Outbound → State → State
  | .start, s => { s with done := true, inframe := true, result := .success }
  | .stop, s => { s with done := true, inframe := false, result := .success }
  | .byte _, s => { s with done := true, result := .success }

/-- The flags and counter of an inbound byte that arrived after `cnt` polls that found `DONE = 0`
(40_bus_transport.md rule R79). -/
def markReceived (cnt : BitVec 32) (s : State) : State :=
  { s with done := true, cnt := cnt, result := .success }

/-- INIT: `CFG_TIMING <- TIMING_VALUE`, `INITED <- 1`, `RESULT <- 0` and nothing else
(40_bus_transport.md rule R75). -/
def configure (s : State) : State :=
  { s with cfgTiming := Config.timingValue, inited := true, result := .success }

end Sys2Proof.Machine
end

