-- ==== Sys2Proof/Machine/Operands.lean ====
section
/-! DEFINITION. Operand forms: what each command requires before it does anything
(60_exceptions.md rule R111), the page-address translator, the device-address byte, and the buffer
address of a page byte. -/

namespace Sys2Proof.Machine

/-! ## What a command requires -/

/-- The first refusal of two checks. -/
def orElse : Option Refusal → Option Refusal → Option Refusal
  | some r, _ => some r
  | none, o => o

/-- A bus primitive requires `INITED = 1` (40_bus_transport.md rule R83). -/
def needInited (s : State) : Option Refusal := if s.inited then none else some .notInitialised

/-- A byte transfer or STOP requires an open frame (40_bus_transport.md rule R83). -/
def needFrame (s : State) : Option Refusal :=
  orElse (needInited s) (if s.inframe then none else some .noFrame)

/-- A register that is read must hold a value (10_state.md rule R32). -/
def needValue (held : Bool) (r : RegName) : Option Refusal :=
  if held then none else some (.noValue r)

/-- WRITE_BYTE also reads `DATA` (30_encoding.md rule R60). -/
def needData (s : State) : Option Refusal :=
  orElse (needFrame s) (needValue s.written.data .data)

/-- How far host address `b` lies above host address `a`, going up modulo `2^HOST_AW`. -/
def hostDistance (a b : Nat) (s : State) : Nat :=
  (hostAddress b s + (hostSize s - hostAddress a s)) % hostSize s

/-- Does the page buffer share a byte with the register file? Both are intervals modulo `2^HOST_AW`:
when neither is empty, they meet exactly when one starts inside the other (20_memory.md rule R56). -/
def bufferOverlaps (s : State) : Bool :=
  decide (s.ps ≠ 0) &&
    (decide (hostDistance s.buf s.regBase s < s.ps.toNat) ||
      decide (hostDistance s.regBase s.buf s < Config.regSpan))

/-- A page command requires that `PN`, `PS`, `BUF` hold a value, `PS >= 1` (41_page_client.md rule
R92), and a buffer clear of the registers (20_memory.md rule R56). -/
def needPage (s : State) : Option Refusal :=
  orElse (needValue s.written.pn .pn)
    (orElse (needValue s.written.ps .ps)
      (orElse (needValue s.written.buf .buf)
        (orElse (if s.ps = 0 then some .zeroPageSize else none)
          (if bufferOverlaps s then some .bufferOverlapsRegisters else none))))

/-- What is missing of what a command requires, before it does anything (60_exceptions.md rule R111);
INIT requires nothing. -/
def missing : Instr → State → Option Refusal
  | .init, _ => none
  | .start, s => needInited s
  | .stop, s => needFrame s
  | .writeByte, s => needData s
  | .readByte _, s => needFrame s
  | .readPage, s => needPage s
  | .writePage, s => needPage s

/-! ## The page-address translator -/

/-- `trunc_16(PN * PS)`: the exact product, of which the low 16 bits are kept (41_page_client.md rule
R90). -/
def pageAddress (p n : Word) : Word := BitVec.ofNat 16 (p.toNat * n.toNat)

/-- `Translate`: `ADDR <- trunc_16(PN * PS)` (41_page_client.md rule R90). -/
def translate (s : State) : State :=
  { s with addr := pageAddress s.pn s.ps, written := { s.written with addr := true } }

/-- `hi = ADDR[15:8]` and `lo = ADDR[7:0]`; `hi` is sent first (20_memory.md rule R35). -/
def highByte (a : Word) : Byte := a.extractLsb' 8 8
def lowByte (a : Word) : Byte := a.extractLsb' 0 8

/-! ## The device-address byte and the buffer -/

/-- `DEV_ADDR7 ++ intent`, intent 0 to write and 1 to read (30_encoding.md rule R63; which value means
read is 92_eei_decisions.md D11, assumption log 17). -/
def writeIntent : Byte := Config.devAddr7 ++ (0 : BitVec 1)
def readIntent : Byte := Config.devAddr7 ++ (1 : BitVec 1)

/-- The host address of page byte `IDX`: `BUF + IDX`, which the buffer accesses take modulo
`2^HOST_AW` (20_memory.md rule R56). -/
def byteAddress (s : State) : Nat := s.buf + s.idx.toNat

/-- "`k <- 1 if IDX != s - 1 else 0`": CONTINUE on every byte but the last (41_page_client.md rules
R93, R95). -/
def ackByPosition (s : State) : AckFlag := if s.idx ≠ s.ps - 1 then .cont else .term

end Sys2Proof.Machine
end

