-- ==== Sys2Proof/Machine/Registers.lean ====
section
/-! DEFINITION. The host's accesses to the register file (10_state.md rules R25 to R28), all but the
launch of a command by a write to `CMD`, which Machine/HostPort.lean adds. -/

namespace Sys2Proof.Machine

/-- The host gets a value back from a register read (70_reset_and_hazards.md rule R151). -/
def hostGets (v : Nat) (s : State) : State := { s with hostReads := s.hostReads ++ [v] }

/-- The width of the register at an offset, if there is one (10_state.md rule R25). -/
def widthAt (hostAw : Nat) (off : BitVec 5) : Option Nat :=
  if off = 0x00 ∨ off = 0x01 ∨ off = 0x02 ∨ off = 0x03 ∨ off = 0x10 then some 8
  else if off = 0x04 ∨ off = 0x06 ∨ off = 0x0A then some 16
  else if off = 0x0C then some 32
  else if off = 0x08 then some hostAw
  else none

/-- A register read: the value if the register holds one. -/
def readHeld (held : Bool) (r : RegName) (v : Nat) : Except Refusal Nat :=
  if held then .ok v else .error (.noValue r)

/-- The registers as the host reads them while the block is idle. -/
def readAt (off : BitVec 5) (s : State) : Except Refusal Nat :=
  if off = 0x00 then .ok 0
  else if off = 0x01 then .ok (statusByte s).toNat
  else if off = 0x02 then readHeld s.written.data .data s.data.toNat
  else if off = 0x03 then .ok Config.devAddr7.toNat
  else if off = 0x04 then readHeld s.written.pn .pn s.pn.toNat
  else if off = 0x06 then readHeld s.written.ps .ps s.ps.toNat
  else if off = 0x08 then readHeld s.written.buf .buf s.buf
  else if off = 0x0A then readHeld s.written.addr .addr s.addr.toNat
  else if off = 0x0C then .ok s.retryBudget.toNat
  else if off = 0x10 then readHeld s.inited .timing s.cfgTiming.toNat
  else .error .badAccess

/-- The registers other than `CMD` as the host writes them: `DATA` and the operands of the page
commands take the value, the read-only registers ignore it. -/
def writeAt (off : BitVec 5) (v : Nat) (s : State) : State :=
  if off = 0x02 then setData (BitVec.ofNat 8 v) s
  else if off = 0x04 then { s with pn := BitVec.ofNat 16 v, written := { s.written with pn := true } }
  else if off = 0x06 then { s with ps := BitVec.ofNat 16 v, written := { s.written with ps := true } }
  else if off = 0x08 then { s with buf := v, written := { s.written with buf := true } }
  else s

/-- A read while idle gives the host the value. -/
def giveRead (v : Except Refusal Nat) (s : State) : Except Refusal State :=
  match v with
  | .ok x => .ok (hostGets x s)
  | .error r => .error r

/-- An access while idle that is not a write to `CMD`: at the register's own width, or refused. -/
def idleAccess (a : Access) (s : State) : Except Refusal State :=
  match a with
  | .rd width off =>
    if widthAt s.hostAw off = some width then giveRead (readAt off s) s else .error .badAccess
  | .wr width off v =>
    if widthAt s.hostAw off = some width then .ok (writeAt off v.toNat s) else .error .badAccess

/-- An access while `BUSY = 1`: `STATUS` may be read, every write is dropped with no effect, any
other read is refused (10_state.md rules R27, R28; 92_eei_decisions.md D6; assumption log 20). -/
def busyAccess (a : Access) (s : State) : Except Refusal State :=
  match a with
  | .rd width off =>
    if width = 8 ∧ off = 0x01 then .ok (hostGets (statusByte s).toNat s) else .error .readWhileBusy
  | .wr _ _ _ => .ok s

end Sys2Proof.Machine
end

