-- ==== Sys2Proof/Machine/Handshake.lean ====
section
/-! DEFINITION. How a primitive waits and ends: the unbounded handshake of START, STOP and WRITE_BYTE
(40_bus_transport.md rule R74), the ACK/NAK handler (rule R80) and the timeout enforcer (rule R81) of
READ_BYTE, and the launch and end of a command. -/

namespace Sys2Proof.Machine

/-! ## Waiting -/

/-- How a wait for the environment ends. -/
inductive Waited where
  | complete (polls : Nat) (answer : Answer) (s : State)
  | never (reached : Bool) (s : State)
  | reset (reached : Bool) (s : State)
  | refused (r : Refusal)
  deriving DecidableEq, Repr

/-- The environment's answer ends the wait. -/
def conclude (r : Reply) (s : State) : Waited :=
  match r with
  | .complete polls answer => .complete polls answer s
  | .never reached => .never reached s
  | .reset reached => .reset reached s

/-- The wait over what happens: register accesses of the host are served on the way; with nothing
scripted the environment's answer is a free value (assumption log 1). An interlude that stands here
happens during the wait; no earlier transfer is outstanding then (`clearDone`), so a late completion
is none. -/
def awaitOver : List Happening → State → Waited
  | [], s => conclude (Config.oracleReply s.draws) (drawn { s with env := [] })
  | .reply r :: rest, s => conclude r { s with env := rest }
  | .access a :: rest, s =>
    match busyAccess a s with
    | .ok t => awaitOver rest t
    | .error r => .refused r
  | .between (.access a) :: rest, s =>
    match busyAccess a s with
    | .ok t => awaitOver rest t
    | .error r => .refused r
  | .between .reset :: rest, s => .reset false { s with env := rest }
  | .between .late :: rest, s | .between .go :: rest, s => awaitOver rest s

/-- `Await`, and the question to `OracleRead` (00_scope.md rule R11). -/
def await (s : State) : Waited := awaitOver s.env s

/-! ## How a primitive or a command ends -/

/-- The end of a primitive or of a run of them (70_reset_and_hazards.md rule R145). -/
inductive Run where
  /-- Completed. -/
  | ended (s : State)
  /-- Failed with Bus Timeout, which has been taken. -/
  | failed (s : State)
  /-- Hung: no further step of the command, ever. -/
  | hung (s : State)
  /-- Abandoned by the reset input. -/
  | reset (s : State)
  /-- The host did what the spec gives no meaning during the wait. -/
  | refused (r : Refusal)
  deriving DecidableEq, Repr

/-- "Statements separated by `;` or by line are executed in order; each bus primitive completes before
the next begins" (00_scope.md rule R11). -/
def Run.andThen (x : Run) (f : State → Run) : Run :=
  match x with
  | .ended s => f s
  | .failed s => .failed s
  | .hung s => .hung s
  | .reset s => .reset s
  | .refused r => .refused r

/-- The end of the command as the outcome of its step: completed or failed, the command is over
(10_state.md rule R27); hung, `BUSY` stays 1 (40_bus_transport.md rule R74). -/
def Run.outcome (x : Run) : Host.Outcome State Fault Refusal :=
  match x with
  | .ended s => .next (finish s)
  | .failed s => .next (finish s)
  | .hung s => .next s
  | .reset s => .next s
  | .refused r => .refused r

/-- Between two primitives of a page command, when no handshake is outstanding: the host's accesses are
served as at any time while `BUSY = 1` (10_state.md rule R28), so that `STATUS` shows `DONE = 1`
there (rule R16); a late completion sets `DONE`; the reset input abandons the command. -/
def attendOver : List Happening → State → Run
  | .between (.access a) :: rest, s =>
    match busyAccess a s with
    | .ok t => attendOver rest t
    | .error r => .refused r
  | .between .late :: rest, s => attendOver rest (completeLate s)
  | .between .reset :: rest, s => .reset (takeReset { s with env := rest })
  | .between .go :: rest, s => .ended { s with env := rest }
  | [], s => .ended { s with env := [] }
  | .access a :: rest, s => .ended { s with env := .access a :: rest }
  | .reply r :: rest, s => .ended { s with env := .reply r :: rest }

/-- The interludes that come next. -/
def attend (s : State) : Run := attendOver s.env s

/-- A primitive of a page command, after the interludes before it. -/
def paced (primitive : State → Run) (s : State) : Run := (attend s).andThen primitive

/-- Issuing a command: dropped while `BUSY = 1` (10_state.md rule R27); refused before it does
anything when what it requires is missing (60_exceptions.md rule R111); launched otherwise. -/
def issue (i : Instr) (missing : Option Refusal) (body : State → Run) (s : State) :
    Host.Outcome State Fault Refusal :=
  if s.busy then .next s
  else
    match missing with
    | some r => .refused r
    | none => (body (launch i s)).outcome

/-- INIT, which waits for nothing and cannot fail (40_bus_transport.md rule R75). -/
def initialise (s : State) : Run := .ended (configure s)

/-! ## Outbound: the start/stop generator and the byte shifter -/

/-- The device sees an outbound event. -/
def reach : Outbound → State → State
  | .start, s => devStart s
  | .stop, s => devStop s
  | .byte b, s => devWrite b s

/-- The device saw the event, or did not. -/
def reachIf (reached : Bool) (e : Outbound) (s : State) : State := if reached then reach e s else s

/-- The receiver's answer to an outbound byte: on the wire only, stored nowhere but in the history
(40_bus_transport.md rule R78). -/
def answerTo (b : Byte) (answer : Answer) (s : State) : Ack :=
  match answer with
  | .device => devAck b s
  | .other _ a => a

/-- The completed event (00_scope.md rule R12). -/
def eventOf (e : Outbound) (answer : Answer) (s : State) : Event :=
  match e with
  | .start => .s
  | .stop => .p
  | .byte b => .w b (answerTo b answer s)

/-- The unfinished event of a hang (00_scope.md rule R12). -/
def hungEventOf : Outbound → Event
  | .start => .sHung
  | .stop => .pHung
  | .byte b => .wHung b

/-- A completed outbound event: it is appended to `TRACE`, and the device that answered takes part. -/
def deliver (e : Outbound) (answer : Answer) (s : State) : State :=
  emit (eventOf e answer s) (reachIf (decide (answer = .device)) e s)

/-- The handshake of START, STOP and WRITE_BYTE: launch, wait without bound, complete or hang
(40_bus_transport.md rules R74, R76 to R78). -/
def transmit (e : Outbound) (s : State) : Run :=
  match await (clearDone s) with
  | .complete _ answer t => .ended (markComplete e (deliver e answer t))
  | .never reached t => .hung (emit (hungEventOf e) (reachIf reached e t))
  | .reset reached t => .reset (takeReset (reachIf reached e t))
  | .refused r => .refused r

/-- WRITE_BYTE(b) as the page sequencer issues it: `DATA <- b`, then the handshake
(40_bus_transport.md rule R78). -/
def sendByte (b : Byte) (s : State) : Run := transmit (.byte b) (setData b s)

/-! ## Inbound: the ACK/NAK handler and the timeout enforcer -/

/-- Would the test of `DONE` made after `cnt` unsuccessful ones find it 1? -/
def ready : Option Nat → Nat → Bool
  | some d, cnt => decide (d ≤ cnt)
  | none, _ => false

/-- The poll loop as 40_bus_transport.md rule R79 writes it, with `left` tests to go: the final
`CNT`, and whether some test found `DONE = 1`. `d` is none for a transfer that never completes. -/
def pollLoop (d : Option Nat) : Nat → Nat → Nat × Bool
  | 0, cnt => (cnt, false)
  | left + 1, cnt => if ready d cnt then (cnt, true) else pollLoop d left (cnt + 1)

/-- The timeout enforcer, in the exact counts of 40_bus_transport.md rule R81: success if and only if
`d < RETRY_BUDGET`, after `d` unsuccessful tests; exactly `RETRY_BUDGET` of them on Failure. The
obligation `PollLoopMeetsItsCounts` says that rule R79's loop gives the same. -/
def poll (budget : BitVec 32) : Option Nat → Nat × Bool
  | some d => if d < budget.toNat then (d, true) else (budget.toNat, false)
  | none => (budget.toNat, false)

/-- The byte an inbound transfer delivers, and the device's part in it. -/
def inboundByte (answer : Answer) (s : State) : Byte :=
  match answer with
  | .device => devByte s
  | .other b _ => b
def inbound (answer : Answer) (s : State) : State :=
  match answer with
  | .device => devRead s
  | .other _ _ => s

/-- The device saw a transfer that did not complete, or did not. -/
def readIf (reached : Bool) (s : State) : State := if reached then devRead s else s

/-- A completed inbound byte. -/
def acceptByte (k : AckFlag) (answer : Answer) (cnt : Nat) (s : State) : State :=
  markReceived (BitVec.ofNat 32 cnt)
    (setData (inboundByte answer s) (emit (.r (inboundByte answer s) (ackOf k)) (inbound answer s)))

/-- READ_BYTE(k) (40_bus_transport.md rules R79 to R81), with the byte index its Bus Timeout would
carry. A transfer that was only too slow is left outstanding (10_state.md rule R31 item 3). -/
def receive (k : AckFlag) (i : Option Word) (s : State) : Run :=
  match await (clearDone { s with ackf := k }) with
  | .complete d answer t =>
    if (poll t.retryBudget (some d)).2 then
      .ended (acceptByte k answer (poll t.retryBudget (some d)).1 t)
    else
      .failed (takeBusTimeout i (ackOf k) (BitVec.ofNat 32 (poll t.retryBudget (some d)).1)
        { inbound answer t with late := true })
  | .never reached t =>
    .failed (takeBusTimeout i (ackOf k) (BitVec.ofNat 32 (poll t.retryBudget none).1) (readIf reached t))
  | .reset reached t => .reset (takeReset (readIf reached t))
  | .refused r => .refused r

end Sys2Proof.Machine
end

