-- ==== Sys2Proof/Machine/PageClient.lean ====
section
/-! DEFINITION. The two Page Storage Client commands (41_page_client.md rules R93, R94), built on the
five primitives and nothing else (rule R89). -/

namespace Sys2Proof.Machine

/-- Steps 1 and 2 of both page commands up to the low address byte: INIT; Translate; START, device
address with write-intent, high byte, low byte (41_page_client.md rules R93, R94). -/
def sendAddress (s : State) : Run :=
  (paced initialise (setSeq 1 s)).andThen fun r =>
  (paced (transmit .start) (translate (setSeq 2 r))).andThen fun t =>
  (paced (sendByte writeIntent) t).andThen fun u =>
  (paced (sendByte (highByte u.addr)) u).andThen fun v =>
  paced (sendByte (lowByte v.addr)) v

/-- A READ_BYTE of READ_PAGE that failed ends the command: the buffer bytes from `IDX` on are draws
(41_page_client.md rule R98), and no STOP is issued (60_exceptions.md rule R107). -/
def abortRead (left : Nat) (x : Run) : Run :=
  match x with
  | .failed s => .failed (scribble left (byteAddress s) s)
  | .ended s => .ended s
  | .hung s => .hung s
  | .reset s => .reset s
  | .refused r => .refused r

/-- Step 4 of READ_PAGE with `left` bytes to go (41_page_client.md rule R93): each byte is stored as
soon as it arrives, in index order. -/
def readBytes : Nat → State → Run
  | 0, s => .ended s
  | left + 1, s =>
    (abortRead (left + 1) (paced (receive (ackByPosition s) (some s.idx)) s)).andThen fun t =>
    readBytes left (setIdx (t.idx + 1) (memWrite (byteAddress t) t.data t))

/-- Step 3 of WRITE_PAGE with `left` bytes to go (41_page_client.md rule R94): each byte is read at
the moment it is sent, in index order. -/
def writeBytes : Nat → State → Run
  | 0, s => .ended s
  | left + 1, s =>
    (paced (sendByte (memRead (byteAddress s) s)) s).andThen fun t =>
    writeBytes left (setIdx (t.idx + 1) t)

/-- READ_PAGE after launch, steps 1 to 5 (41_page_client.md rule R93). -/
def readPageBody (s : State) : Run :=
  (sendAddress s).andThen fun t =>
  (paced (transmit .stop) t).andThen fun u =>
  (paced (transmit .start) (setSeq 3 u)).andThen fun v =>
  (paced (sendByte readIntent) v).andThen fun w =>
  (readBytes w.ps.toNat (setIdx 0 (setSeq 4 w))).andThen fun x =>
  paced (transmit .stop) (setSeq 5 x)

/-- WRITE_PAGE after launch, steps 1 to 4 (41_page_client.md rule R94). -/
def writePageBody (s : State) : Run :=
  (sendAddress s).andThen fun t =>
  (writeBytes t.ps.toNat (setIdx 0 (setSeq 3 t))).andThen fun u =>
  paced (transmit .stop) (setSeq 4 u)

/-- READ_PAGE (41_page_client.md rule R93). `RESULT` is 0 after its last STOP and 1 after a Bus
Timeout, as those primitives leave it. -/
def execReadPage (s : State) : Host.Outcome State Fault Refusal :=
  issue .readPage (missing .readPage s) readPageBody s

/-- WRITE_PAGE (41_page_client.md rule R94): it has no failure. -/
def execWritePage (s : State) : Host.Outcome State Fault Refusal :=
  issue .writePage (missing .writePage s) writePageBody s

end Sys2Proof.Machine
end

