-- ==== Sys2Proof/Machine/Transport.lean ====
section
/-! DEFINITION. The five Bus Transport commands (40_bus_transport.md rules R75 to R79). -/

namespace Sys2Proof.Machine

/-- INIT (40_bus_transport.md rule R75): pure register configuration, no bus event, no failure. -/
def execInit (s : State) : Host.Outcome State Fault Refusal :=
  issue .init (missing .init s) initialise s

/-- START (40_bus_transport.md rule R76); admitted inside a frame (rule R84). -/
def execStart (s : State) : Host.Outcome State Fault Refusal :=
  issue .start (missing .start s) (transmit .start) s

/-- STOP (40_bus_transport.md rule R77). -/
def execStop (s : State) : Host.Outcome State Fault Refusal :=
  issue .stop (missing .stop s) (transmit .stop) s

/-- WRITE_BYTE of the byte in `DATA` (40_bus_transport.md rule R78). -/
def execWriteByte (s : State) : Host.Outcome State Fault Refusal :=
  issue .writeByte (missing .writeByte s) (sendByte s.data) s

/-- READ_BYTE (40_bus_transport.md rule R79), by hand: its Bus Timeout carries no byte index. -/
def execReadByte (k : AckFlag) (s : State) : Host.Outcome State Fault Refusal :=
  issue (.readByte k) (missing (.readByte k) s) (receive k none) s

end Sys2Proof.Machine
end

