-- ==== Sys2Proof/Machine/Dispatch.lean ====
section
/-! DEFINITION. One arm per command. -/

namespace Sys2Proof.Machine

def exec (i : Instr) (s : State) : Host.Outcome State Fault Refusal :=
  match i with
  | .init => Sys2Proof.Machine.execInit s
  | .start => Sys2Proof.Machine.execStart s
  | .stop => Sys2Proof.Machine.execStop s
  | .writeByte => Sys2Proof.Machine.execWriteByte s
  | .readByte k => Sys2Proof.Machine.execReadByte k s
  | .readPage => Sys2Proof.Machine.execReadPage s
  | .writePage => Sys2Proof.Machine.execWritePage s

end Sys2Proof.Machine
end

