-- ==== Sys2Proof/Machine/HostPort.lean ====
section
/-! DEFINITION. What arrives while no handshake is outstanding: the host's register accesses with the
launch of a command by a write to `CMD` (10_state.md rule R27), its stores to its own memory, the
reset input, the power gate, and a late completion. -/

namespace Sys2Proof.Machine

/-- An access that was served, or refused. -/
def served (x : Except Refusal State) : Host.Outcome State Fault Refusal :=
  match x with
  | .ok t => .next t
  | .error r => .refused r

/-- A write of a command byte to `CMD` while idle: a legal byte runs its command, a reserved byte is
refused (30_encoding.md rule R68). -/
def writeCmd (b : Byte) (s : State) : Host.Outcome State Fault Refusal :=
  match decode b with
  | .ok i => exec i s
  | .error why => .refused (.reservedCommand why)

/-- The offset of `CMD` (10_state.md rule R25). -/
def cmdOffset : BitVec 5 := 0x00

/-- Is this access a write to `CMD`? If so, of which byte? -/
def commandOf : Access → Option Byte
  | .wr width off v => if width = 8 ∧ off = cmdOffset then some (v.setWidth 8) else none
  | .rd _ _ => none

/-- One register access of the host. -/
def access (a : Access) (s : State) : Host.Outcome State Fault Refusal :=
  if s.busy then served (busyAccess a s)
  else
    match commandOf a with
    | some b => writeCmd b s
    | none => served (idleAccess a s)

/-- Does a page command in progress own the page buffer (70_reset_and_hazards.md rule R151)? -/
def ownsBuffer (s : State) : Bool :=
  s.busy && (decide (s.op = some (opcodeOf .readPage)) || decide (s.op = some (opcodeOf .writePage)))

/-- One arrival. The power gate is logically independent of the block (60_exceptions.md rule R120). That
it may be switched while a command hangs (`BUSY = 1`), as well as between commands, is the model's choice,
of which the spec says nothing (assumption log 15); so is when the host may store (log 16). -/
def arrive (x : Input) (s : State) : Host.Outcome State Fault Refusal :=
  match x with
  | .access a => access a s
  | .store addr b => if ownsBuffer s then .refused .bufferOwned else .next (memWrite addr b s)
  | .reset => .next (takeReset s)
  | .gate on => .next (switchGate on s)
  | .lateCompletion => .next (completeLate s)

/-- One step: the next arrival, or nothing ("the block does nothing until the host issues one",
70_reset_and_hazards.md rule R126). -/
def stepOnce (s : State) : Host.Outcome State Fault Refusal :=
  match s.inputs with
  | [] => .next s
  | x :: rest => arrive x { s with inputs := rest }

/-- The state in which the host's next access is a write of the low eight bits of `w` to `CMD`. -/
def withCommand (w : Nat) (s : State) : State :=
  { s with inputs := .access (.wr 8 cmdOffset (BitVec.ofNat 8 w)) :: s.inputs }

end Sys2Proof.Machine
end

