-- ==== Sys2Proof/Machine/Step.lean ====
section
/-! DEFINITION. One step of the machine, and how the host places the next command. -/

namespace Sys2Proof.Machine

/-- One step: the host's or platform's next arrival is served to its end. A launched command runs
until it completes, fails, hangs or is reset (assumption log 18). -/
def step (s : State) : Host.Outcome State Fault Refusal := stepOnce s

/-- The state whose very next step is the host's write of this command byte to `CMD` (10_state.md rule
R27). The block fetches no instructions (10_state.md rule R15), so the host's next access is what
stands for a fetch (assumption log 2). -/
def State.withFetchWord (s : State) (_nbits w : Nat) : State := withCommand w s

end Sys2Proof.Machine
end

