-- ==== Sys2Proof/Safety.lean ====
section
/-! DEFINITION. The terms the claims are stated in: what a history says, the invariants of the
machine, the premises on the environment and on the host, and the histories of the page commands. -/

namespace Sys2Proof.Safety

open Sys2Proof.Machine

/-! ## Histories -/

/-- Whether a frame is open after one more event: from an `S` up to the next `P` (00_scope.md,
"Frame"). -/
def frameAfter (isOpen : Bool) : Event → Bool
  | .s => true
  | .p => false
  | .w _ _ | .r _ _ | .rf _ | .sHung | .pHung | .wHung _ => isOpen

/-- Whether a frame is open at the end of a history. -/
def frameOpen (trace : List Event) : Bool := trace.foldl frameAfter false

/-- Does the history end in an unfinished event? -/
def endsHung (trace : List Event) : Bool :=
  match trace.getLast? with
  | some e => e.unfinished
  | none => false

/-- Is this event the give-up of an inbound byte? -/
def isTimeout : Event → Bool
  | .rf _ => true
  | .s | .p | .w _ _ | .r _ _ | .sHung | .pHung | .wHung _ => false

/-- The events of the inbound bytes of a page: acknowledged, but for the last (41_page_client.md rule
R95). -/
def readEvents : List Byte → List Event
  | [] => []
  | [b] => [.r b .nak]
  | b :: c :: rest => .r b .ack :: readEvents (c :: rest)

/-- The acknowledgment the controller drove, or was to drive, with an inbound byte. -/
def inboundAck : Event → Option Ack
  | .r _ k | .rf k => some k
  | .s | .p | .w _ _ | .sHung | .pHung | .wHung _ => none

/-- The acknowledgments of the inbound bytes of a history, in order. -/
def inboundAcks (trace : List Event) : List Ack := trace.filterMap inboundAck

/-- The acknowledgments of the inbound bytes of a page of `n`: continue, but for the last
(41_page_client.md rule R95). -/
def pageAcks (n : Nat) : List Ack := List.replicate (n - 1) .ack ++ [.nak]

/-- Is `e` the completed event of what was sent, whatever the receiver answered? -/
def completes : Outbound → Event → Prop
  | .start, e => e = .s
  | .stop, e => e = .p
  | .byte b, e => ∃ a, e = .w b a

/-- The events are the completed ones of what was sent, in the same order and number. -/
def sentAs (sent : List Outbound) (events : List Event) : Prop := List.Forall₂ completes sent events

/-- The page in a buffer: the `n` bytes from host address `a` on, in index order, in an address space
of `size` bytes. -/
def pageAt (m : Memory) (size a : Nat) : Nat → List Byte
  | 0 => []
  | n + 1 => Memory.read m (a % size) :: pageAt m size (a + 1) n

/-- The page in the caller's buffer. -/
def bufferPage (s : State) : List Byte := pageAt s.hostMem (hostSize s) s.buf s.ps.toNat

/-- The `n` bytes the device holds from address `a` on. -/
def devicePage (d : Device) (a : Word) : Nat → List Byte
  | 0 => []
  | n + 1 => d.content a :: devicePage d (a + 1) n

/-- The three bytes that give the device its address (30_encoding.md rules R63, R64). -/
def addressBytes (p s : Word) : List Byte :=
  [writeIntent, highByte (pageAddress p s), lowByte (pageAddress p s)]

/-- What READ_PAGE sends before its first inbound byte: the set-address frame, and the start of the
read frame (30_encoding.md rule R62). -/
def readPageSends (s : State) : List Outbound :=
  [.start] ++ (addressBytes s.pn s.ps).map .byte ++ [.stop, .start, .byte readIntent]

/-- What WRITE_PAGE sends: the write frame (30_encoding.md rule R62). -/
def writePageSends (s : State) : List Outbound :=
  [.start] ++ (addressBytes s.pn s.ps ++ bufferPage s).map .byte ++ [.stop]

/-! ## Reset -/

/-- The block's elements are at the values of 10_state.md rule R32. -/
def atResetValues (s : State) : Prop :=
  s.busy = false ∧ s.done = false ∧ s.result = .success ∧ s.inframe = false ∧ s.inited = false ∧
  s.ackf = .term ∧ s.cnt = 0 ∧ s.op = none ∧ s.seq = 0 ∧ s.idx = 0 ∧ s.written = Written.none ∧
  s.trace = []

/-! ## Invariants -/

/-- The host's memory is in canonical form in an address space of `2^HOST_AW` bytes. -/
def hostWf (s : State) : Bool := Memory.wf (hostSize s) s.hostMem

/-- Both byte memories are in canonical form, and `BUF` is a host address. -/
def MemoryInv (s : State) : Prop :=
  hostWf s = true ∧ s.dev.wf = true ∧ s.buf < hostSize s

/-- `INFRAME` is what `TRACE` says; unfinished events stand last only; `BUSY` stays 1 exactly in a
hang (10_state.md rules R19, R20, 00_scope.md rule R12). That `BUSY` is 1 in no other state between two
steps is so because a command is one step (assumption log 18); inside it `BUSY` is 1 all along. -/
def HistoryInv (s : State) : Prop :=
  s.inframe = frameOpen s.trace ∧
  (∀ e ∈ s.trace.dropLast, e.unfinished = false) ∧
  s.busy = endsHung s.trace

/-- An idle block has no command in progress; a hung one has, with `DONE = 0` and no earlier transfer
outstanding (10_state.md rules R15, R16, R27; assumption log 7). That a busy block is a hung one between
two steps is so because a command is one step (assumption log 18). -/
def SequencerInv (s : State) : Prop :=
  (s.busy = false → s.op = none ∧ s.seq = 0) ∧
  (s.busy = true → s.op ≠ none ∧ s.done = false ∧ s.late = false)

/-- `INITED = 1` means that `CFG_TIMING` holds `TIMING_VALUE` (10_state.md rule R21); a frame is open
only after INIT; Failure stands only while the frame it left open is (60_exceptions.md rule R107). -/
def FlagInv (s : State) : Prop :=
  (s.inited = true → s.cfgTiming = Config.timingValue) ∧
  (s.inframe = true → s.inited = true) ∧
  (s.result = .failure → s.inframe = true)

/-- `CNT` never exceeds `RETRY_BUDGET` (41_page_client.md rule R91); each Bus Timeout raised has its
`RF` in the history (60_exceptions.md rule R105). -/
def TimeoutInv (s : State) : Prop :=
  s.cnt.toNat ≤ s.retryBudget.toNat ∧ s.raised.length = s.trace.countP isTimeout

/-! ## Premises on the environment -/

/-- The handshakes complete, each with this number of polls and this answer. -/
def completions (answers : List (Nat × Answer)) : List Happening :=
  answers.map fun x => .reply (.complete x.1 x.2)

/-- Every inbound byte among these answers comes within the retry budget. -/
def inBudget (budget : BitVec 32) (answers : List (Nat × Answer)) : Prop :=
  ∀ x ∈ answers, x.1 < budget.toNat

/-- Where an answer names the byte it delivers, that is the byte. -/
def givenBytes (reads : List (Nat × Answer)) (bytes : List Byte) : Prop :=
  ∀ (i d : Nat) (b : Byte) (a : Ack), reads[i]? = some (d, Answer.other b a) → bytes[i]? = some b

/-- The non-failing bus of 20_memory.md rule R47 for a run of handshakes: every one completes, inbound
bytes within the budget, and the reference device answers. -/
def nonFailing (polls : List Nat) : List (Nat × Answer) := polls.map fun d => (d, .device)

/-- A reply that makes READ_BYTE time out: too slow, or never. -/
def timesOut (budget : BitVec 32) : Reply → Prop
  | .complete d _ => budget.toNat ≤ d
  | .never _ => True
  | .reset _ => False

/-- A page lies in the device and in one of its windows, and the device is there: the premises of
20_memory.md rule R50. -/
def pageInDevice (d : Device) (p s : Word) : Prop :=
  d.powered = true ∧
  p.toNat * s.toNat + s.toNat ≤ d.space ∧ d.space ≤ 65536 ∧
  (d.window = 0 ∨ (p.toNat * s.toNat) / d.window = (p.toNat * s.toNat + s.toNat - 1) / d.window)

/-- Does this entry of the schedule end a wait? -/
def isReply : Happening → Bool
  | .reply _ => true
  | .access _ | .between _ => false

/-- An access that the host may make while `BUSY = 1`: a read of `STATUS`, or a write, which is dropped
(92_eei_decisions.md D6). -/
def allowedWhileBusy : Access → Bool
  | .rd width off => decide (width = 8) && decide (off = 0x01)
  | .wr _ _ _ => true

/-- An entry of the schedule that does not change what a command does but by ending a wait: a malformed
write is dropped like any other (assumption log 20), a late completion sets `DONE` only (log 7). -/
def harmless : Happening → Bool
  | .reply _ | .between .late | .between .go => true
  | .access a | .between (.access a) => allowedWhileBusy a
  | .between .reset => false

/-- A schedule of these completions, with nothing else in it but what is harmless: allowed accesses of the
host, a late completion, and the ends of interludes. -/
def undisturbed (answers : List (Nat × Answer)) (schedule : List Happening) : Prop :=
  (∀ h ∈ schedule, harmless h = true) ∧ schedule.filter isReply = completions answers

/-- The platform asserts the reset input, during a wait or between two primitives. -/
def assertsReset (h : Happening) : Prop := h = .between .reset ∨ ∃ reached, h = .reply (.reset reached)

/-! ## Premises on the host -/

/-- The host reads `STATUS`. -/
def readStatus : Access := .rd 8 0x01

/-- An access of the host between two primitives. -/
def interlude (a : Access) : Happening := .between (.access a)

/-- How an access of the host is served at one place of the schedule while command `i` runs: a write is
dropped; a read of `STATUS` gives `status` and changes nothing else; any other read is refused. -/
def servedWhileBusy (i : Instr) (s : State) (status : Byte) (place : Access → Happening)
    (before behind : List Happening) : Prop :=
  (∀ width off v, exec i { s with env := before ++ place (.wr width off v) :: behind } =
    exec i { s with env := before ++ behind }) ∧
  (exec i { s with env := before ++ place readStatus :: behind } =
    exec i { s with env := before ++ behind, hostReads := s.hostReads ++ [status.toNat] }) ∧
  (∀ width off, width ≠ 8 ∨ off ≠ 0x01 →
    exec i { s with env := before ++ place (.rd width off) :: behind } = .refused .readWhileBusy)

/-- A page command may be launched: the block is idle and nothing it requires is missing. -/
def pageReady (s : State) : Prop := s.busy = false ∧ needPage s = none

/-- Host address `a` is byte `i` of the page buffer, for some `i < PS`. -/
def inBuffer (s : State) (a : Nat) : Prop := ∃ i < s.ps.toNat, a = (s.buf + i) % hostSize s

/-! ## The page commands by hand -/

/-- The host writes a command byte to `CMD`. -/
def cmd (b : Byte) : Input := .access (.wr 8 cmdOffset b)

/-- The host sends one byte by hand: `DATA`, then WRITE_BYTE. -/
def sendByHand (b : Byte) : List Input := [.access (.wr 8 0x02 b), cmd 0x04]

/-- The primitives of a frame's start, by hand (30_encoding.md rule R71). -/
def addressByHand (p s : Word) : List Input :=
  cmd 0x01 :: cmd 0x02 :: (addressBytes p s).flatMap sendByHand

/-- WRITE_PAGE of these bytes by hand (30_encoding.md rule R71). -/
def writePageByHand (p s : Word) (bytes : List Byte) : List Input :=
  addressByHand p s ++ bytes.flatMap sendByHand ++ [cmd 0x03]

/-- READ_PAGE by hand, but for the stores into the buffer (30_encoding.md rule R71; program P3). -/
def readPageByHand (p s : Word) : List Input :=
  addressByHand p s ++ [cmd 0x03, cmd 0x02] ++ sendByHand readIntent ++
    List.replicate (s.toNat - 1) (cmd 0x15) ++ [cmd 0x05, cmd 0x03]

end Sys2Proof.Safety
end

