-- ==== Sys2Proof/Certificates/Slice0/Obligations.lean ====
section
/-! DEFINITION. The statements for the provers. `Sys2Proof.Safety` holds the terms they use. -/

open Sys2Proof Sys2Proof.Machine Sys2Proof.Safety

/-! ## Encoding -/

/-- The eight legal command bytes and what they decode as (30_encoding.md rule R59). -/
def Obligations.CommandBytesDecodeAsTabled : Prop :=
  decode 0x01 = .ok .init ∧ decode 0x02 = .ok .start ∧ decode 0x03 = .ok .stop ∧
  decode 0x04 = .ok .writeByte ∧ decode 0x05 = .ok (.readByte .term) ∧
  decode 0x15 = .ok (.readByte .cont) ∧ decode 0x08 = .ok .readPage ∧ decode 0x09 = .ok .writePage

/-- Decoding an encoded command gives it back, and a byte that decodes is the encoding of what it
decodes to, so no bit of it is dropped (30_encoding.md rules R58, R61). -/
def Obligations.DecodeAndEncodeAgree : Prop :=
  (∀ i : Instr, i.wellFormed = true → decode (encode i) = .ok i) ∧
  (∀ (b : Byte) (i : Instr), decode b = .ok i → encode i = b)

/-- Every byte but the eight legal ones is refused when the host writes it to `CMD` while the block is
idle (30_encoding.md rule R68). -/
def Obligations.ReservedBytesAreRefused : Prop :=
  ∀ (s : State) (b : Byte) (rest : List Input), s.busy = false →
    s.inputs = .access (.wr 8 0x00 b) :: rest →
    b ∉ ([0x01, 0x02, 0x03, 0x04, 0x05, 0x15, 0x08, 0x09] : List Byte) →
    ∃ why, decode b = .error why ∧ step s = .refused (.reservedCommand why)

/-! ## Steps and host accesses -/

/-- A write of a legal command byte to `CMD` while `BUSY = 0` runs the command it decodes to; the step
adds nothing but taking the access off the list of arrivals (10_state.md rule R27). That the whole command
is one step is the model's choice (assumption log 18). -/
def Obligations.StepRunsTheDecodedCommand : Prop :=
  ∀ (s : State) (b : Byte) (i : Instr) (rest : List Input), s.busy = false →
    s.inputs = .access (.wr 8 0x00 b) :: rest → decode b = .ok i → i.wellFormed = true →
    step s = exec i { s with inputs := rest }

/-- While `BUSY = 1` a host write is dropped with no effect at all, a write of a legal command byte too; a
read of `STATUS` is served; any other read is refused (10_state.md rule R27; 92_eei_decisions.md D6;
93_implementation_defined.md U14). That a malformed write or a reserved command byte is dropped then,
and that `CMD` and `DEV_ADDR` cannot be read then, is the model's choice (assumption log 20). -/
def Obligations.AccessesWhileBusy : Prop :=
  ∀ (s : State) (a : Access) (rest : List Input), s.busy = true → s.inputs = .access a :: rest →
    (∀ width off v, a = .wr width off v → step s = .next { s with inputs := rest }) ∧
    (a = .rd 8 0x01 → step s =
      .next { s with inputs := rest, hostReads := s.hostReads ++ [(statusByte s).toNat] }) ∧
    (∀ width off, width ≠ 8 ∨ off ≠ 0x01 → a = .rd width off → step s = .refused .readWhileBusy)

/-- Issuing a command while `BUSY = 1` changes nothing, whichever it is (10_state.md rule R27). -/
def Obligations.NoCommandStartsWhileBusy : Prop :=
  ∀ (i : Instr) (s : State), s.busy = true → exec i s = .next s

/-- The bits of `STATUS`, and all of them 0 after reset (10_state.md rule R26). -/
def Obligations.StatusShowsTheFlags : Prop :=
  statusByte State.reset = 0 ∧
  ∀ s : State,
    (statusByte s).getLsbD 0 = s.busy ∧ (statusByte s).getLsbD 1 = s.done ∧
    (statusByte s).getLsbD 2 = decide (s.result = .failure) ∧
    (statusByte s).getLsbD 3 = s.inframe ∧ (statusByte s).getLsbD 4 = s.inited ∧
    (statusByte s).extractLsb' 5 3 = 0

/-- The host's reads while idle: a register that holds a value gives it; `CMD` reads as 0, `DEV_ADDR`
as `0x50`, `RETRY` as the retry budget, `ADDR` as the last translated address, `BUF_BASE` at the
width of a host address (10_state.md rule R25). A read changes nothing but the host's own list of
values. -/
def Obligations.IdleReadsGiveTheRegisters : Prop :=
  ∀ (s : State) (a : Access) (v : Nat) (rest : List Input), s.busy = false →
    s.inputs = .access a :: rest →
    (a = .rd 8 0x00 ∧ v = 0) ∨ (a = .rd 8 0x01 ∧ v = (statusByte s).toNat) ∨
    (a = .rd 8 0x02 ∧ s.written.data = true ∧ v = s.data.toNat) ∨ (a = .rd 8 0x03 ∧ v = 0x50) ∨
    (a = .rd 16 0x04 ∧ s.written.pn = true ∧ v = s.pn.toNat) ∨
    (a = .rd 16 0x06 ∧ s.written.ps = true ∧ v = s.ps.toNat) ∨
    (a = .rd s.hostAw 0x08 ∧ s.written.buf = true ∧ v = s.buf) ∨
    (a = .rd 16 0x0A ∧ s.written.addr = true ∧ v = s.addr.toNat) ∨
    (a = .rd 32 0x0C ∧ v = s.retryBudget.toNat) ∨
    (a = .rd 8 0x10 ∧ s.inited = true ∧ v = s.cfgTiming.toNat) →
    step s = .next { s with inputs := rest, hostReads := s.hostReads ++ [v] }

/-- The host's writes while idle: the operand registers take the value and hold one from then on, the
read-only registers ignore the write (10_state.md rule R25). -/
def Obligations.IdleWritesReachTheOperands : Prop :=
  ∀ (s : State) (rest : List Input), s.busy = false →
    (∀ v, s.inputs = .access (.wr 8 0x02 v) :: rest → step s =
      .next { s with inputs := rest, data := v, written := { s.written with data := true } }) ∧
    (∀ v, s.inputs = .access (.wr 16 0x04 v) :: rest → step s =
      .next { s with inputs := rest, pn := v, written := { s.written with pn := true } }) ∧
    (∀ v, s.inputs = .access (.wr 16 0x06 v) :: rest → step s =
      .next { s with inputs := rest, ps := v, written := { s.written with ps := true } }) ∧
    (∀ v, s.inputs = .access (.wr s.hostAw 0x08 v) :: rest → step s =
      .next { s with inputs := rest, buf := v.toNat, written := { s.written with buf := true } }) ∧
    (∀ v, s.inputs = .access (.wr 8 0x01 v) :: rest ∨ s.inputs = .access (.wr 8 0x03 v) :: rest ∨
      s.inputs = .access (.wr 8 0x10 v) :: rest → step s = .next { s with inputs := rest }) ∧
    (∀ v, s.inputs = .access (.wr 16 0x0A v) :: rest → step s = .next { s with inputs := rest }) ∧
    (∀ v, s.inputs = .access (.wr 32 0x0C v) :: rest → step s = .next { s with inputs := rest })

/-- An access of another width, or at an offset not in the register map, is refused while idle
(10_state.md rule R25; 93_implementation_defined.md U12). -/
def Obligations.IllFormedAccessesAreRefused : Prop :=
  ∀ (s : State) (a : Access) (rest : List Input), s.busy = false → s.inputs = .access a :: rest →
    a.wellFormed s.hostAw = false → step s = .refused .badAccess

/-- A register that holds no value cannot be read, by the host or by a command: the read is refused,
never a zero, never a draw (10_state.md rule R32; 93_implementation_defined.md U10). -/
def Obligations.RegistersWithoutValueRefuse : Prop :=
  ∀ (s : State) (rest : List Input), s.busy = false →
    (s.written.data = false → s.inputs = .access (.rd 8 0x02) :: rest →
      step s = .refused (.noValue .data)) ∧
    (s.written.pn = false → s.inputs = .access (.rd 16 0x04) :: rest → step s = .refused (.noValue .pn)) ∧
    (s.written.ps = false → s.inputs = .access (.rd 16 0x06) :: rest → step s = .refused (.noValue .ps)) ∧
    (s.written.buf = false → s.inputs = .access (.rd s.hostAw 0x08) :: rest →
      step s = .refused (.noValue .buf)) ∧
    (s.written.addr = false → s.inputs = .access (.rd 16 0x0A) :: rest →
      step s = .refused (.noValue .addr)) ∧
    (s.inited = false → s.inputs = .access (.rd 8 0x10) :: rest →
      step s = .refused (.noValue .timing)) ∧
    (s.written.data = false → s.inited = true → s.inframe = true →
      exec .writeByte s = .refused (.noValue .data)) ∧
    (s.written.pn = false ∨ s.written.ps = false ∨ s.written.buf = false →
      ∃ r, exec .readPage s = .refused (.noValue r) ∧ exec .writePage s = .refused (.noValue r))

/-! ## Reset -/

/-- The state after reset: the values of 10_state.md rule R32 (the spec's D15), the retry budget at its
default, and nothing readable in the registers that hold no value. -/
def Obligations.ResetLeavesTheBlockIdle : Prop :=
  atResetValues State.reset ∧ State.reset.retryBudget = 100000 ∧
  readAt 0x01 State.reset = .ok 0 ∧ readAt 0x03 State.reset = .ok 0x50 ∧
  readAt 0x02 State.reset = .error (.noValue .data) ∧ readAt 0x04 State.reset = .error (.noValue .pn) ∧
  readAt 0x06 State.reset = .error (.noValue .ps) ∧ readAt 0x08 State.reset = .error (.noValue .buf) ∧
  readAt 0x0A State.reset = .error (.noValue .addr) ∧
  readAt 0x10 State.reset = .error (.noValue .timing)

/-- The reset input takes effect at once, whatever the block was doing, also in a hang, and does not
reach the environment: the device, the host's memory and the instance parameters stay
(70_reset_and_hazards.md rules R125, R127). -/
def Obligations.ResetInputTakesEffectAtOnce : Prop :=
  ∀ (s : State) (rest : List Input), s.inputs = .reset :: rest →
    ∃ t, step s = .next t ∧ atResetValues t ∧ t.inputs = rest ∧ t.dev = s.dev ∧
      t.hostMem = s.hostMem ∧ t.retryBudget = s.retryBudget ∧ t.hostAw = s.hostAw ∧
      t.regBase = s.regBase

/-- A reset during a command abandons it, wherever it falls, in a wait or between two primitives, that
between INIT and the first START of a page command among them, and whatever reads of `STATUS`, host writes
and late completion came before it: no further event, the block at its reset values, and host memory as
the command had left it.
START, STOP, WRITE_BYTE, READ_BYTE, WRITE_PAGE at any of its handshakes and READ_PAGE before its first
inbound byte have stored nothing; READ_PAGE later, up to its last STOP, has stored the bytes that
arrived (70_reset_and_hazards.md rule R128). That a malformed write before the reset is dropped, and that
a late completion there sets `DONE` only, are the model's choices (assumption logs 20 and 7). -/
def Obligations.ResetAbandonsTheCommand : Prop :=
  ∀ (s : State) (x : Happening) (before rest : List Happening), s.busy = false → assertsReset x →
    s.env = before ++ x :: rest →
    (∀ i : Instr, i = .start ∨ i = .stop ∨ i = .writeByte ∨ (∃ k, i = .readByte k) →
      missing i s = none → undisturbed [] before →
      ∃ t, exec i s = .next t ∧ atResetValues t ∧ t.env = rest ∧ t.hostMem = s.hostMem) ∧
    (∀ answers : List (Nat × Answer), needPage s = none → answers.length < s.ps.toNat + 5 →
      undisturbed answers before →
      ∃ t, exec .writePage s = .next t ∧ atResetValues t ∧ t.env = rest ∧ t.hostMem = s.hostMem) ∧
    (∀ setup : List (Nat × Answer), needPage s = none → setup.length < 7 → undisturbed setup before →
      ∃ t, exec .readPage s = .next t ∧ atResetValues t ∧ t.env = rest ∧ t.hostMem = s.hostMem) ∧
    (∀ setup reads : List (Nat × Answer), needPage s = none → hostWf s = true → setup.length = 7 →
      reads.length ≤ s.ps.toNat → inBudget s.retryBudget reads → undisturbed (setup ++ reads) before →
      ∃ (t : State) (bytes : List Byte), exec .readPage s = .next t ∧ atResetValues t ∧ t.env = rest ∧
        bytes.length = reads.length ∧ givenBytes reads bytes ∧
        pageAt t.hostMem (hostSize s) s.buf reads.length = bytes ∧
        ∀ a, (∀ i < reads.length, a ≠ (s.buf + i) % hostSize s) →
          Memory.read t.hostMem a = Memory.read s.hostMem a)

/-! ## INIT -/

/-- INIT is command byte 0x01; it writes `CFG_TIMING`, `INITED` and `RESULT` and nothing else, emits no
bus event, and completes from every idle state, mid-frame too; a second INIT changes nothing; it is
the only primitive legal when `INITED = 0` (40_bus_transport.md rule R75, with the spec's D14). -/
def Obligations.InitConfiguresTheTiming : Prop :=
  decode 0x01 = .ok .init ∧
  (∀ s : State, s.busy = false →
    exec .init s = .next { s with
      cfgTiming := Config.timingValue, inited := true, result := .success, op := none, seq := 0 }) ∧
  (∀ s t : State, s.busy = false → exec .init s = .next t → exec .init t = .next t) ∧
  (∃ t, exec .init State.reset = .next t ∧ t.trace = []) ∧
  (∀ (s : State) (k : AckFlag), s.busy = false → s.inited = false →
    exec .start s = .refused .notInitialised ∧ exec .stop s = .refused .notInitialised ∧
    exec .writeByte s = .refused .notInitialised ∧
    exec (.readByte k) s = .refused .notInitialised)

/-- "Calling `initialize()` twice in sequence produces the same configured timing as calling it once"
(20_memory.md rule R42): the second INIT changes nothing at all. -/
def Obligations.InitTwiceIsInitOnce : Prop :=
  ∀ s t : State, s.busy = false → exec .init s = .next t → exec .init t = .next t

/-! ## START, STOP, WRITE_BYTE, READ_BYTE -/

/-- START (40_bus_transport.md rule R76, with rules R74 and R84): refused before INIT; on a bus that
completes it, inside a frame or not, the whole next state; where the handshake never completes, the
hang: the unfinished event, `DONE = 0`, `BUSY` and `OP` left, `RESULT` and `INFRAME` not written. The
model's choices: an event that did not complete may or may not have reached the device (assumption log
14), and launching forgets a late transfer (assumption log 7). -/
def Obligations.StartFollowsItsRule : Prop :=
  decode 0x02 = .ok .start ∧ ∀ s : State, s.busy = false →
    (s.inited = false → exec .start s = .refused .notInitialised) ∧
    (∀ (d : Nat) (x : Answer) (rest : List Happening),
      s.inited = true → s.env = .reply (.complete d x) :: rest → exec .start s = .next { s with
        done := true, inframe := true, result := .success, op := none, seq := 0, late := false
        trace := s.trace ++ [.s], env := rest
        dev := if x = .device ∧ s.dev.powered = true then { s.dev with ph := .sla } else s.dev }) ∧
    (∀ (reached : Bool) (rest : List Happening),
      s.inited = true → s.env = .reply (.never reached) :: rest → exec .start s = .next { s with
        done := false, late := false, busy := true, op := some 0b0010, trace := s.trace ++ [.sHung]
        env := rest, dev := (reachIf reached .start s).dev })

/-- STOP (40_bus_transport.md rule R77, with rule R74): refused before INIT and outside a frame; where
the bus completes it, the whole next state; where it never does, the hang. The device's part in the
hang and the forgotten late transfer are the model's choices (assumption logs 14 and 7). -/
def Obligations.StopFollowsItsRule : Prop :=
  decode 0x03 = .ok .stop ∧ ∀ s : State, s.busy = false →
    (s.inited = false → exec .stop s = .refused .notInitialised) ∧
    (s.inited = true → s.inframe = false → exec .stop s = .refused .noFrame) ∧
    (∀ (d : Nat) (x : Answer) (rest : List Happening), s.inited = true → s.inframe = true →
      s.env = .reply (.complete d x) :: rest → exec .stop s = .next { s with
        done := true, inframe := false, result := .success, op := none, seq := 0, late := false
        trace := s.trace ++ [.p], env := rest
        dev := if x = .device ∧ s.dev.powered = true then { s.dev with ph := .idle } else s.dev }) ∧
    (∀ (reached : Bool) (rest : List Happening), s.inited = true → s.inframe = true →
      s.env = .reply (.never reached) :: rest → exec .stop s = .next { s with
        done := false, late := false, busy := true, op := some 0b0011, trace := s.trace ++ [.pHung]
        env := rest, dev := (reachIf reached .stop s).dev })

/-- WRITE_BYTE (40_bus_transport.md rule R78, with rule R74): refused before INIT and outside a frame;
where the bus completes it, `DATA` is sent as it is, whichever of the 256 values, and the whole next
state is the same whatever the receiver answers, but for the history; where it never does, the hang.
`DATA` must hold a value (10_state.md rule R32). The device's part in the hang, the forgotten late
transfer, and what the device does with a byte outside its range are the model's choices (assumption
logs 14, 7 and 10). -/
def Obligations.WriteByteFollowsItsRule : Prop :=
  decode 0x04 = .ok .writeByte ∧ ∀ s : State, s.busy = false →
    (s.inited = false → exec .writeByte s = .refused .notInitialised) ∧
    (s.inited = true → s.inframe = false → exec .writeByte s = .refused .noFrame) ∧
    (∀ (d : Nat) (x : Answer) (rest : List Happening), s.inited = true → s.inframe = true →
      s.written.data = true → s.env = .reply (.complete d x) :: rest → exec .writeByte s = .next { s with
        done := true, result := .success, op := none, seq := 0, late := false
        trace := s.trace ++ [.w s.data (answerTo s.data x s)], env := rest
        dev := if x = .device ∧ s.dev.powered = true then (s.dev.take s.data).1 else s.dev }) ∧
    (∀ (reached : Bool) (rest : List Happening), s.inited = true → s.inframe = true →
      s.written.data = true → s.env = .reply (.never reached) :: rest → exec .writeByte s = .next { s with
        done := false, late := false, busy := true, op := some 0b0100
        trace := s.trace ++ [.wHung s.data], env := rest
        dev := (reachIf reached (.byte s.data) s).dev })

/-- READ_BYTE (40_bus_transport.md rule R79, with rules R80 and R81): refused before INIT and outside a
frame; where the transfer completes within the budget, the whole next state, `CNT` the number of polls
that found `DONE = 0`; where it does not, Bus Timeout is taken (60_exceptions.md rule R107): `RF`,
`DONE = 0`, `CNT = RETRY_BUDGET`, Failure, the frame left open, of `DATA` nothing said; it never
hangs. The history `raised`, with no byte index by hand, and the mark of a late transfer are the
model's choices (assumption logs 6 and 7). -/
def Obligations.ReadByteFollowsItsRule : Prop :=
  decode 0x05 = .ok (.readByte .term) ∧ decode 0x15 = .ok (.readByte .cont) ∧
  ∀ (s : State) (k : AckFlag), s.busy = false →
    (s.inited = false → exec (.readByte k) s = .refused .notInitialised) ∧
    (s.inited = true → s.inframe = false → exec (.readByte k) s = .refused .noFrame) ∧
    (∀ (d : Nat) (x : Answer) (rest : List Happening), s.inited = true → s.inframe = true →
      s.env = .reply (.complete d x) :: rest → d < s.retryBudget.toNat →
      exec (.readByte k) s = .next { s with
        data := inboundByte x s, written := { s.written with data := true }
        ackf := k, cnt := BitVec.ofNat 32 d
        done := true, result := .success, op := none, seq := 0, late := false
        trace := s.trace ++ [.r (inboundByte x s) (if k = .cont then .ack else .nak)], env := rest
        dev := (inbound x s).dev, draws := (inbound x s).draws }) ∧
    (∀ (r : Reply) (rest : List Happening), s.inited = true → s.inframe = true →
      s.env = .reply r :: rest → timesOut s.retryBudget r →
      ∃ t, exec (.readByte k) s = .next t ∧ t = { s with
        data := t.data, written := { s.written with data := true }
        ackf := k, cnt := s.retryBudget, done := false, result := .failure, op := none, seq := 0
        late := t.late, trace := s.trace ++ [.rf (if k = .cont then .ack else .nak)]
        raised := s.raised ++ [.busTimeout none], env := rest, dev := t.dev, draws := t.draws }) ∧
    (∀ t, exec (.readByte k) s = .next t → t.busy = false)

/-- A bus primitive before INIT, and a byte transfer or STOP with no frame open, are refused before
anything is done, whatever the environment would have answered (40_bus_transport.md rule R83). -/
def Obligations.PrimitivesOutOfOrderAreRefused : Prop :=
  ∀ (s : State) (k : AckFlag), s.busy = false →
    (s.inited = false → exec .start s = .refused .notInitialised ∧
      exec .stop s = .refused .notInitialised ∧ exec .writeByte s = .refused .notInitialised ∧
      exec (.readByte k) s = .refused .notInitialised) ∧
    (s.inited = true → s.inframe = false → exec .stop s = .refused .noFrame ∧
      exec .writeByte s = .refused .noFrame ∧ exec (.readByte k) s = .refused .noFrame)

/-- The poll loop of rule R79 gives the exact counts of rule R81: success if and only if
`d < RETRY_BUDGET`, after `d` tests that found `DONE = 0`; exactly `RETRY_BUDGET` of them on Failure
(40_bus_transport.md rule R81). -/
def Obligations.PollLoopMeetsItsCounts : Prop :=
  ∀ (budget : BitVec 32) (d : Option Nat), pollLoop d budget.toNat 0 = poll budget d

/-! ## Operands of the page commands -/

/-- `ADDR` is the exact product modulo 2^16, sent as `(p*s) >> 8` and `(p*s) & 0xFF` in eight bits each
(41_page_client.md rule R90). -/
def Obligations.TranslatorTruncatesTheProduct : Prop :=
  ∀ (s : State),
    (translate s).addr.toNat = (s.pn.toNat * s.ps.toNat) % 65536 ∧
    (highByte (translate s).addr).toNat = (s.pn.toNat * s.ps.toNat / 256) % 256 ∧
    (lowByte (translate s).addr).toNat = (s.pn.toNat * s.ps.toNat) % 256 ∧
    translate s = { s with
      addr := (translate s).addr, written := { s.written with addr := true } }

/-- After truncation a page address is still a multiple of the page size when the page size divides
65536 (20_memory.md rule R39). -/
def Obligations.PageAddressesAreAligned : Prop :=
  ∀ p s : Word, s.toNat ∣ 65536 → s.toNat ∣ (pageAddress p s).toNat

/-- The buffer overlaps the registers exactly when one of its bytes has the host address of one of the
offsets `0x00` to `0x10`, addresses modulo `2^HOST_AW` (20_memory.md rule R56). -/
def Obligations.OverlapIsASharedAddress : Prop :=
  ∀ s : State, bufferOverlaps s = true ↔
    ∃ i < s.ps.toNat, ∃ j < 17, (s.buf + i) % hostSize s = (s.regBase + j) % hostSize s

/-- A page command with `PS = 0`, or with a buffer over the registers, is refused before anything is
done (41_page_client.md rule R92; 20_memory.md rule R56). -/
def Obligations.PagePreconditionsAreRefused : Prop :=
  ∀ s : State, s.busy = false → s.written.pn = true → s.written.ps = true → s.written.buf = true →
    (s.ps = 0 → exec .readPage s = .refused .zeroPageSize ∧
      exec .writePage s = .refused .zeroPageSize) ∧
    (s.ps ≠ 0 → bufferOverlaps s = true → exec .readPage s = .refused .bufferOverlapsRegisters ∧
      exec .writePage s = .refused .bufferOverlapsRegisters)

/-! ## READ_PAGE -/

/-- READ_PAGE on a bus that completes every handshake and delivers every byte within the budget: the
history, the buffer, and every register; nothing else changes (41_page_client.md rules R93, R95,
R103). The device-address bytes of the history are the spec's D11, general knowledge (assumption log
17); that no late transfer is left is the model's choice (assumption log 7). -/
def Obligations.ReadPageSucceeds : Prop :=
  ∀ (s : State) (setup reads : List (Nat × Answer)) (last : Nat × Answer) (rest : List Happening),
    pageReady s → hostWf s = true → setup.length = 7 → reads.length = s.ps.toNat →
    inBudget s.retryBudget reads →
    s.env = completions setup ++ completions reads ++ completions [last] ++ rest →
    ∃ (t : State) (events : List Event) (bytes : List Byte),
      exec .readPage s = .next t ∧ sentAs (readPageSends s) events ∧ bytes.length = s.ps.toNat ∧
      pageAt t.hostMem (hostSize s) s.buf s.ps.toNat = bytes ∧
      givenBytes reads bytes ∧
      (∀ a, ¬ inBuffer s a → Memory.read t.hostMem a = Memory.read s.hostMem a) ∧
      t = { s with
        data := bytes.getLastD 0, addr := pageAddress s.pn s.ps
        written := { s.written with data := true, addr := true }
        op := none, seq := 0, idx := s.ps, done := true, ackf := .term, result := .success
        inframe := false, inited := true, cfgTiming := Config.timingValue
        cnt := BitVec.ofNat 32 (reads.getLastD (0, .device)).1
        trace := s.trace ++ events ++ readEvents bytes ++ [.p]
        late := false, hostMem := t.hostMem, dev := t.dev, env := rest, draws := t.draws }

/-- READ_PAGE whose byte of index `f` times out: the bytes before it are in the buffer as they
arrived, the frame is left open with no `P`, and the result is Failure; of the buffer from `f` on
nothing is said, and outside the buffer nothing changes (41_page_client.md rules R98, R100, R103;
60_exceptions.md rule R107). The entry in `raised` is the model's choice (assumption log 6); the
device-address bytes are the spec's D11 (assumption log 17). -/
def Obligations.ReadPageAborts : Prop :=
  ∀ (s : State) (setup reads : List (Nat × Answer)) (r : Reply) (rest : List Happening),
    pageReady s → hostWf s = true → setup.length = 7 → reads.length < s.ps.toNat →
    inBudget s.retryBudget reads → timesOut s.retryBudget r →
    s.env = completions setup ++ completions reads ++ .reply r :: rest →
    ∃ (t : State) (events : List Event) (bytes : List Byte),
      exec .readPage s = .next t ∧ sentAs (readPageSends s) events ∧ bytes.length = reads.length ∧
      pageAt t.hostMem (hostSize s) s.buf reads.length = bytes ∧
      givenBytes reads bytes ∧
      (∀ a, ¬ inBuffer s a → Memory.read t.hostMem a = Memory.read s.hostMem a) ∧
      t = { s with
        data := t.data, addr := pageAddress s.pn s.ps
        written := { s.written with data := true, addr := true }
        op := none, seq := 0, idx := BitVec.ofNat 16 reads.length, done := false
        ackf := if reads.length + 1 = s.ps.toNat then .term else .cont
        result := .failure, inframe := true, inited := true, cfgTiming := Config.timingValue
        cnt := s.retryBudget
        trace := s.trace ++ events ++ bytes.map (fun b => .r b .ack) ++
          [.rf (if reads.length + 1 = s.ps.toNat then .nak else .ack)]
        raised := s.raised ++ [.busTimeout (some (BitVec.ofNat 16 reads.length))]
        late := t.late, hostMem := t.hostMem, dev := t.dev, env := rest, draws := t.draws }

/-- READ_PAGE hangs when one of its seven handshakes before the first inbound byte, or its last STOP,
never completes: `BUSY = 1`, `SEQ` and `IDX` where they were, `RESULT = 0`, the unfinished event
last, the host buffer untouched by the handshake, and outside the buffer nothing changed
(41_page_client.md rule R104; the device-address bytes of the history rest on the spec's D11,
assumption log 17). -/
def Obligations.ReadPageHangs : Prop :=
  ∀ (s : State) (reached : Bool) (rest : List Happening), pageReady s →
    (∀ setup : List (Nat × Answer), setup.length < 7 →
      s.env = completions setup ++ .reply (.never reached) :: rest →
      ∃ (t : State) (events : List Event) (e : Event),
        exec .readPage s = .next t ∧ sentAs ((readPageSends s).take setup.length) events ∧
        ((readPageSends s)[setup.length]?).map hungEventOf = some e ∧
        t.trace = s.trace ++ events ++ [e] ∧ t.busy = true ∧ t.op = some 0b1000 ∧
        t.seq = (if setup.length < 5 then 2 else 3) ∧ t.idx = s.idx ∧ t.result = .success ∧
        t.done = false ∧ t.hostMem = s.hostMem ∧ t.cnt = s.cnt ∧ t.ackf = s.ackf ∧
        t.raised = s.raised ∧ t.pn = s.pn ∧ t.ps = s.ps ∧ t.buf = s.buf) ∧
    (∀ setup reads : List (Nat × Answer), hostWf s = true → setup.length = 7 →
      reads.length = s.ps.toNat → inBudget s.retryBudget reads →
      s.env = completions setup ++ completions reads ++ .reply (.never reached) :: rest →
      ∃ (t : State) (events : List Event) (bytes : List Byte),
        exec .readPage s = .next t ∧ sentAs (readPageSends s) events ∧ bytes.length = s.ps.toNat ∧
        pageAt t.hostMem (hostSize s) s.buf s.ps.toNat = bytes ∧ givenBytes reads bytes ∧
        (∀ a, ¬ inBuffer s a → Memory.read t.hostMem a = Memory.read s.hostMem a) ∧
        t.trace = s.trace ++ events ++ readEvents bytes ++ [.pHung] ∧ t.busy = true ∧
        t.op = some 0b1000 ∧ t.seq = 5 ∧ t.idx = s.ps ∧ t.result = .success ∧ t.done = false ∧
        t.inframe = true ∧ t.raised = s.raised ∧ t.pn = s.pn ∧ t.ps = s.ps ∧ t.buf = s.buf)

/-- "the acknowledgment flag passed to the underlying byte-read primitive is "continue" for all bytes
except the last of a page, and "terminate" exactly on the last byte, for every page size" (41_page_client.md
rule R95): the acknowledgments that READ_PAGE drives are these in order, as far as it gets, and all of
them when it succeeds, whatever the data, the page number and the bus. -/
def Obligations.AcknowledgmentsGoByPosition : Prop :=
  ∀ s t : State, pageReady s → exec .readPage s = .next t →
    atResetValues t ∨ ∃ gained : List Event, t.trace = s.trace ++ gained ∧
      inboundAcks gained <+: pageAcks s.ps.toNat ∧
      (t.busy = false → t.result = .success → inboundAcks gained = pageAcks s.ps.toNat)

/-! ## WRITE_PAGE -/

/-- WRITE_PAGE on a bus that completes every handshake, whatever the receiver answers: one frame of the
address and the `PS` buffer bytes in order, and every register; the buffer, `ACKF` and `CNT` are not
touched and nothing else changes (41_page_client.md rules R94, R103). The device-address byte of the
history is the spec's D11 (assumption log 17); that no late transfer is left is the model's choice
(assumption log 7). -/
def Obligations.WritePageCompletes : Prop :=
  ∀ (s : State) (answers : List (Nat × Answer)) (rest : List Happening),
    pageReady s → answers.length = s.ps.toNat + 5 → s.env = completions answers ++ rest →
    ∃ (t : State) (events : List Event),
      exec .writePage s = .next t ∧ sentAs (writePageSends s) events ∧
      t = { s with
        data := (bufferPage s).getLastD 0, addr := pageAddress s.pn s.ps
        written := { s.written with data := true, addr := true }
        op := none, seq := 0, idx := s.ps, done := true, result := .success
        inframe := false, inited := true, cfgTiming := Config.timingValue
        trace := s.trace ++ events, late := false, dev := t.dev, env := rest }

/-- WRITE_PAGE hangs at the first handshake that never completes: `BUSY = 1`, `SEQ` and `IDX` where
they were, `RESULT = 0`, the unfinished event last (41_page_client.md rule R104; the device-address
byte of the history rests on the spec's D11, assumption log 17; `late` on log 7). -/
def Obligations.WritePageHangs : Prop :=
  ∀ (s : State) (answers : List (Nat × Answer)) (reached : Bool) (rest : List Happening),
    pageReady s → answers.length < s.ps.toNat + 5 →
    s.env = completions answers ++ .reply (.never reached) :: rest →
    ∃ (t : State) (events : List Event) (e : Event),
      exec .writePage s = .next t ∧ sentAs ((writePageSends s).take answers.length) events ∧
      ((writePageSends s)[answers.length]?).map hungEventOf = some e ∧
      t = { s with
        data := t.data, addr := pageAddress s.pn s.ps
        written := { s.written with data := s.written.data || decide (0 < answers.length), addr := true }
        op := some 0b1001
        seq := if answers.length < 4 then 2 else if answers.length < s.ps.toNat + 4 then 3 else 4
        idx := if answers.length < 4 then s.idx else BitVec.ofNat 16 (answers.length - 4)
        done := false, result := .success, busy := true
        inframe := s.inframe || decide (0 < answers.length), inited := true
        cfgTiming := Config.timingValue
        trace := s.trace ++ events ++ [e], late := false, dev := t.dev, env := rest }

/-- "a page write never reports failure regardless of actual outcome" (10_state.md rule R18): whatever
happens on the bus, WRITE_PAGE from an idle state leaves Success and raises nothing. -/
def Obligations.WritePageNeverFails : Prop :=
  ∀ s t : State, s.busy = false → exec .writePage s = .next t →
    t.result = .success ∧ (t.raised = s.raised ∨ atResetValues t)

/-! ## The page commands are their expansions -/

/-- WRITE_PAGE does what the host would do by hand with the primitives of its expansion: on a bus that
completes every handshake the two runs end in the same state but for `ADDR`, `IDX` and what the host
reads of them (30_encoding.md rule R71). -/
def Obligations.WritePageIsItsExpansion : Prop :=
  ∀ (s : State) (answers : List (Nat × Answer)) (rest : List Happening),
    pageReady s → s.inputs = [] → answers.length = s.ps.toNat + 5 →
    s.env = completions answers ++ rest →
    ∃ t u : State, exec .writePage s = .next t ∧
      Host.Core.run core (2 * s.ps.toNat + 9)
        { s with inputs := writePageByHand s.pn s.ps (bufferPage s) } = .next u ∧
      t = { u with addr := t.addr, idx := t.idx, written := { u.written with addr := true } }

/-- READ_PAGE likewise, on a bus that completes every handshake and delivers every byte within the
budget, but for the stores into the buffer, which by hand are the host's (30_encoding.md rule R71). -/
def Obligations.ReadPageIsItsExpansion : Prop :=
  ∀ (s : State) (setup reads : List (Nat × Answer)) (last : Nat × Answer) (rest : List Happening),
    pageReady s → s.inputs = [] → setup.length = 7 → reads.length = s.ps.toNat →
    inBudget s.retryBudget reads →
    s.env = completions setup ++ completions reads ++ completions [last] ++ rest →
    ∃ t u : State, exec .readPage s = .next t ∧
      Host.Core.run core (s.ps.toNat + 13) { s with inputs := readPageByHand s.pn s.ps } = .next u ∧
      t = { u with
        addr := t.addr, idx := t.idx, written := { u.written with addr := true }, hostMem := t.hostMem }

/-! ## The page commands on the reference device -/

/-- READ_PAGE on the non-failing bus fills the buffer with the page's bytes in the device and leaves
the device's contents, with its current address just past the page (20_memory.md rules R42, R48). -/
def Obligations.ReadPageReadsTheDevice : Prop :=
  ∀ (s : State) (polls : List Nat) (rest : List Happening),
    pageReady s → hostWf s = true → pageInDevice s.dev s.pn s.ps →
    polls.length = s.ps.toNat + 8 → inBudget s.retryBudget (nonFailing polls) →
    s.env = completions (nonFailing polls) ++ rest →
    ∃ t, exec .readPage s = .next t ∧ t.result = .success ∧
      pageAt t.hostMem (hostSize s) s.buf s.ps.toNat =
        devicePage s.dev (pageAddress s.pn s.ps) s.ps.toNat ∧
      (∀ a, t.dev.content a = s.dev.content a) ∧
      t.dev.ptr = pageAddress s.pn s.ps + s.ps ∧ t.dev.ph = .idle

/-- WRITE_PAGE on the non-failing bus stores the buffer's bytes in the device at the page's address, in
order, and no other byte of the device, whatever stray writes came before (41_page_client.md rule R94;
20_memory.md rule R48). -/
def Obligations.WritePageWritesTheDevice : Prop :=
  ∀ (s : State) (polls : List Nat) (rest : List Happening),
    pageReady s → s.dev.wf = true → pageInDevice s.dev s.pn s.ps →
    polls.length = s.ps.toNat + 5 → s.env = completions (nonFailing polls) ++ rest →
    ∃ t, exec .writePage s = .next t ∧ t.result = .success ∧
      devicePage t.dev (pageAddress s.pn s.ps) s.ps.toNat = bufferPage s ∧
      (∀ a : Word, (∀ i < s.ps.toNat, a ≠ pageAddress s.pn s.ps + BitVec.ofNat 16 i) →
        t.dev.content a = s.dev.content a) ∧
      t.dev.ptr = pageAddress s.pn s.ps + s.ps ∧ t.dev.ph = .idle ∧ t.dev.strays = s.dev.strays

/-- The round trip: a page written from one buffer and read back into another, which may be the same
or overlap it, is the page that was written (20_memory.md rule R50, with its premises, on the
reference device of rule R48). -/
def Obligations.PageRoundTrip : Prop :=
  ∀ (s : State) (buf2 : Nat) (polls : List Nat) (rest : List Happening),
    pageReady s → pageReady { s with buf := buf2 } → MemoryInv s → pageInDevice s.dev s.pn s.ps →
    polls.length = (s.ps.toNat + 5) + (s.ps.toNat + 8) → inBudget s.retryBudget (nonFailing polls) →
    s.env = completions (nonFailing polls) ++ rest →
    ∃ t u : State, exec .writePage s = .next t ∧ exec .readPage { t with buf := buf2 } = .next u ∧
      u.result = .success ∧ pageAt u.hostMem (hostSize s) buf2 s.ps.toNat = bufferPage s

/-! ## The reference device, the power gate, a late completion -/

/-- The transitions of the reference device, one clause each, while the device is powered, and within
its range for the two that touch its contents (20_memory.md rule R48, the spec's own construction, its
D21; which intent bit reads is its D11, from general knowledge, assumption log 17). -/
def Obligations.DeviceFollowsItsTransitions : Prop :=
  ∀ (s : State) (b : Byte), s.dev.powered = true → s.dev.wf = true →
    (devStart s = { s with dev := { s.dev with ph := .sla } }) ∧
    (devStop s = { s with dev := { s.dev with ph := .idle } }) ∧
    (s.dev.ph = .sla → b = 0xA0 →
      devWrite b s = { s with dev := { s.dev with ph := .ah } } ∧ devAck b s = .ack) ∧
    (s.dev.ph = .sla → b = 0xA1 →
      devWrite b s = { s with dev := { s.dev with ph := .rd } } ∧ devAck b s = .ack) ∧
    (s.dev.ph = .sla → b ≠ 0xA0 → b ≠ 0xA1 →
      devWrite b s = { s with dev := { s.dev with ph := .deaf } } ∧ devAck b s = .nak) ∧
    (s.dev.ph = .ah → devAck b s = .ack ∧
      ∃ q, devWrite b s = { s with dev := { s.dev with ph := .al, ptr := q } } ∧
        highByte q = b ∧ lowByte q = lowByte s.dev.ptr) ∧
    (s.dev.ph = .al → devAck b s = .ack ∧
      ∃ q, devWrite b s =
          { s with dev := { s.dev with ph := .wr, ptr := q, start := q, astray := false } } ∧
        highByte q = highByte s.dev.ptr ∧ lowByte q = b) ∧
    (s.dev.ph = .wr → s.dev.inSpace = true → s.dev.inWindow = true → devAck b s = .ack ∧
      (∀ c, (devWrite b s).dev.content c = if c = s.dev.ptr then b else s.dev.content c) ∧
      (devWrite b s).dev.ptr = s.dev.ptr + 1 ∧ (devWrite b s).dev.ph = .wr) ∧
    (s.dev.ph = .idle ∨ s.dev.ph = .rd ∨ s.dev.ph = .deaf → devWrite b s = s ∧ devAck b s = .nak) ∧
    (s.dev.ph = .rd → s.dev.inSpace = true →
      devByte s = s.dev.content s.dev.ptr ∧ (∀ c, (devRead s).dev.content c = s.dev.content c) ∧
      (devRead s).dev.ptr = s.dev.ptr + 1 ∧ (devRead s).dev.ph = .rd) ∧
    (s.dev.ph ≠ .rd → (devRead s).dev = s.dev)

/-- A device that is not there answers every outbound byte with a no-acknowledge and takes nothing in
(20_memory.md rule R49); power-off keeps the device's contents, and of its current address and frame
position nothing is said (60_exceptions.md rule R123). That the contents are kept, that switching on
changes nothing but the power, and that the gate acts while a command hangs too, are the model's
choices (assumption log 15). -/
def Obligations.UnpoweredDeviceIsAbsent : Prop :=
  (∀ (s : State) (e : Outbound) (b : Byte), s.dev.powered = false →
    reach e s = s ∧ devAck b s = .nak ∧ (devRead s).dev = s.dev) ∧
  (∀ (s : State) (rest : List Input), s.inputs = .gate false :: rest →
    ∃ t, step s = .next t ∧ t.dev.powered = false ∧ (∀ a, t.dev.content a = s.dev.content a) ∧
      t = { s with inputs := rest, dev := t.dev, draws := t.draws }) ∧
  (∀ (s : State) (rest : List Input), s.inputs = .gate true :: rest →
    step s = .next { s with inputs := rest, dev := { s.dev with powered := true } })

/-- A transfer that outlived its READ_BYTE may set `DONE` later, once; START, STOP or WRITE_BYTE launched
in between clears that, however it ends, so that the completion is not taken for its own (10_state.md
rule R16; 70_reset_and_hazards.md rule R139). That a completion sets `DONE` and nothing else, and
once, is the model's reading (assumption log 7). -/
def Obligations.LateCompletionSetsDoneOnce : Prop :=
  (∀ (s : State) (rest : List Input), s.inputs = .lateCompletion :: rest →
    (s.late = true → step s = .next { s with inputs := rest, done := true, late := false }) ∧
    (s.late = false → step s = .next { s with inputs := rest })) ∧
  (∀ (i : Instr) (s t : State), i = .start ∨ i = .stop ∨ i = .writeByte → s.busy = false →
    exec i s = .next t → t.late = false)

/-! ## The byte memories -/

/-- Between commands, and while a primitive by hand hangs, the host stores to its own memory, where its
page buffers are: one byte, nothing else; while a page command owns the buffer it has no such move
(70_reset_and_hazards.md rule R151). That the host may store while a primitive by hand hangs, and that a
store is refused while a page command is in progress, whatever its address, are the model's choices
(assumption log 16). -/
def Obligations.HostStoresOneByte : Prop :=
  ∀ (s : State) (a : Nat) (b : Byte) (rest : List Input), s.inputs = .store a b :: rest →
    hostWf s = true →
    (s.busy = false ∨ (s.op ≠ some 0b1000 ∧ s.op ≠ some 0b1001) → ∃ t, step s = .next t ∧
      t = { s with inputs := rest, hostMem := t.hostMem } ∧
      ∀ c, Memory.read t.hostMem c = if c = a % hostSize s then b else Memory.read s.hostMem c) ∧
    (s.busy = true → s.op = some 0b1000 ∨ s.op = some 0b1001 → step s = .refused .bufferOwned)

/-- Canonical memories that read the same everywhere are the same data: the canonical form is the
model's own, with 0 for a byte nothing has written (assumption log 8). -/
def Obligations.CanonicalMemoriesAreEqualData : Prop :=
  ∀ (size : Nat) (m n : Memory), Memory.wf size m = true → Memory.wf size n = true →
    (∀ a < size, Memory.read m a = Memory.read n a) → m = n

/-! ## Whole-machine rules -/

/-- No step ends in a fault: the block's one exception is taken, a hang is a state, and where the spec
gives no meaning the step is refused (60_exceptions.md rules R105, R113, R115). -/
def Obligations.NoStepFaults : Prop :=
  ∀ (s : State) (r : Fault), step s ≠ .fault r

/-- A command from an idle block ends completed, failed (READ_BYTE and READ_PAGE only), hung (any but
INIT and READ_BYTE), or abandoned by reset, and in no other way (70_reset_and_hazards.md rule R145). That
the whole command is one step is the model's choice (assumption log 18). -/
def Obligations.CommandsEndInOneOfTheWays : Prop :=
  ∀ (i : Instr) (s t : State), s.busy = false → exec i s = .next t →
    (t.busy = false ∧ t.result = .success) ∨
    (t.busy = false ∧ t.result = .failure ∧ ((∃ k, i = .readByte k) ∨ i = .readPage)) ∨
    (t.busy = true ∧ i ≠ .init ∧ ∀ k, i ≠ .readByte k)

/-- Bus Timeout is raised by READ_BYTE and by READ_PAGE through it only, at most once in a command, when
the poll loop ran `RETRY_BUDGET` iterations without finding `DONE = 1`, and what raises it ends in
Failure; a command raises nothing else (60_exceptions.md rules R105, R111). The history `raised`, with
no byte index for READ_BYTE by hand, is the model's own (assumption log 6). -/
def Obligations.OnlyInboundBytesRaise : Prop :=
  ∀ (i : Instr) (s t : State), s.busy = false → exec i s = .next t →
    t.raised = s.raised ∨ atResetValues t ∨
    (t.result = .failure ∧ t.cnt = s.retryBudget ∧ t.done = false ∧ t.busy = false ∧
      ((∃ k, i = .readByte k ∧ t.raised = s.raised ++ [.busTimeout none]) ∨
       (i = .readPage ∧ ∃ f, t.raised = s.raised ++ [.busTimeout (some f)])))

/-- The operand registers `PN`, `PS`, `BUF` are never changed by a command (41_page_client.md rule
R103), unless the reset input abandons it. -/
def Obligations.CommandsKeepTheOperands : Prop :=
  ∀ (i : Instr) (s t : State), exec i s = .next t →
    (t.pn = s.pn ∧ t.ps = s.ps ∧ t.buf = s.buf) ∨ atResetValues t

/-- The instance parameters are written by nothing, reset included: `RETRY_BUDGET`, `HOST_AW`, the base
of the register file, and the device's size and window (00_scope.md rule R9; 10_state.md rule R24). -/
def Obligations.ParametersNeverChange : Prop :=
  ∀ s t : State, step s = .next t →
    t.retryBudget = s.retryBudget ∧ t.hostAw = s.hostAw ∧ t.regBase = s.regBase ∧
    t.dev.space = s.dev.space ∧ t.dev.window = s.dev.window

/-- A hung command is stuck: no arrival but reset changes anything of the block, whatever the host
writes and however long it polls (40_bus_transport.md rule R74; 60_exceptions.md rule R113). That the
power gate and the host's own memory can change in a hang is the model's choice (assumption logs 15 and
16); that a busy state between two steps is a hang rests on a command being one step (log 18). -/
def Obligations.HangIsForEver : Prop :=
  ∀ s t : State, SequencerInv s → s.busy = true → step s = .next t →
    (∃ rest, s.inputs = .reset :: rest) ∨
    t = { s with
      inputs := t.inputs, hostReads := t.hostReads, hostMem := t.hostMem, dev := t.dev
      draws := t.draws }

/-- `TRACE` only grows, until a reset empties it: no event is taken back or reordered (00_scope.md rule
R12; 20_memory.md rule R52). -/
def Obligations.HistoryOnlyGrows : Prop :=
  ∀ s t : State, step s = .next t → s.trace <+: t.trace ∨ atResetValues t

/-- The acknowledgment of an outbound byte never reaches controller state: two runs of a page command
on buses that complete every handshake and deliver the same bytes, whatever answers each gives, end
in states that differ at most in the answers kept in the history and in the device
(40_bus_transport.md rule R78). -/
def Obligations.AcknowledgmentsDoNotReachTheBlock : Prop :=
  (∀ (s : State) (xs ys : List (Nat × Answer)) (rest : List Happening),
    pageReady s → xs.length = s.ps.toNat + 5 → ys.length = s.ps.toNat + 5 →
    ∃ (t u : State) (v w : List Event),
      exec .writePage { s with env := completions xs ++ rest } = .next t ∧
      exec .writePage { s with env := completions ys ++ rest } = .next u ∧
      sentAs (writePageSends s) v ∧ sentAs (writePageSends s) w ∧
      u.trace = s.trace ++ w ∧ t = { u with trace := s.trace ++ v, dev := t.dev }) ∧
  (∀ (s : State) (xs ys reads : List (Nat × Answer)) (x y : Nat × Answer) (rest : List Happening),
    pageReady s → xs.length = 7 → ys.length = 7 → reads.length = s.ps.toNat →
    inBudget s.retryBudget reads → (∀ z ∈ reads, z.2 ≠ .device) →
    ∃ (t u : State) (v w : List Event) (bytes : List Byte),
      exec .readPage { s with
        env := completions xs ++ completions reads ++ completions [x] ++ rest } = .next t ∧
      exec .readPage { s with
        env := completions ys ++ completions reads ++ completions [y] ++ rest } = .next u ∧
      sentAs (readPageSends s) v ∧ sentAs (readPageSends s) w ∧ bytes.length = s.ps.toNat ∧
      givenBytes reads bytes ∧ u.trace = s.trace ++ w ++ readEvents bytes ++ [.p] ∧
      t = { u with trace := s.trace ++ v ++ readEvents bytes ++ [.p], dev := t.dev })

/-! ## The host's accesses during a command -/

/-- Whatever the host reads of `STATUS` and writes to the registers while a command runs, in its waits
and between its primitives, and an earlier transfer that completes there, the command does what it
does without: only the values the host has read differ, each with `BUSY = 1` (10_state.md rule R28;
70_reset_and_hazards.md rules R139, R151; 92_eei_decisions.md D6; 93_implementation_defined.md U14).
That a malformed write is dropped too, and that a late completion sets `DONE` only, are the model's
choices (assumption logs 20 and 7). -/
def Obligations.PollingChangesNothingElse : Prop :=
  ∀ (i : Instr) (s u : State), s.busy = false → (∀ h ∈ s.env, harmless h = true) →
    exec i { s with env := s.env.filter isReply } = .next u →
    ∃ (t : State) (values : List Nat), exec i s = .next t ∧
      u = { t with hostReads := s.hostReads, env := t.env.filter isReply } ∧
      t.hostReads = s.hostReads ++ values ∧ ∀ v ∈ values, v % 2 = 1

/-- A host access in any wait of a command: a write is dropped; a read of `STATUS` gives `BUSY = 1` and
`DONE = 0` with the other flags as they stand there, and changes nothing else; any other read is
refused (10_state.md rules R16, R26, R28; 92_eei_decisions.md D6). In a page command INIT has set
`INITED` and cleared `RESULT`, and `INFRAME` is 1 from the first START on, but for the wait of
READ_PAGE's second START. That a malformed write is dropped then, and that `CMD` and `DEV_ADDR` cannot be
read then, is the model's choice (assumption log 20). -/
def Obligations.AccessesDuringAWait : Prop :=
  ∀ (s : State) (waiting : List Access) (r : Reply) (rest : List Happening), s.busy = false →
    (∀ i : Instr, i ≠ .init → i ≠ .readPage → i ≠ .writePage → missing i s = none →
      servedWhileBusy i s (statusByte { s with busy := true, done := false }) .access []
        (waiting.map .access ++ .reply r :: rest)) ∧
    (∀ i : Instr, i = .readPage ∨ i = .writePage → needPage s = none →
      servedWhileBusy i s (statusByte { s with
          busy := true, done := false, inited := true, result := .success }) .access []
        (waiting.map .access ++ .reply r :: rest)) ∧
    (∀ answers : List (Nat × Answer), needPage s = none → 1 ≤ answers.length →
      answers.length < s.ps.toNat + 5 →
      servedWhileBusy .writePage s 0x19 .access (completions answers)
        (waiting.map .access ++ .reply r :: rest)) ∧
    (∀ setup : List (Nat × Answer), needPage s = none → 1 ≤ setup.length → setup.length < 7 →
      servedWhileBusy .readPage s (if setup.length = 5 then 0x11 else 0x19) .access (completions setup)
        (waiting.map .access ++ .reply r :: rest)) ∧
    (∀ setup reads : List (Nat × Answer), needPage s = none → setup.length = 7 →
      reads.length ≤ s.ps.toNat → inBudget s.retryBudget reads →
      servedWhileBusy .readPage s 0x19 .access (completions setup ++ completions reads)
        (waiting.map .access ++ .reply r :: rest))

/-- A host access between any two primitives of a page command: a write is dropped; a read of `STATUS`
gives `BUSY = 1` and changes nothing else; any other read is refused. `STATUS` shows the flags as they
stood before INIT; after INIT `INITED = 1` and `RESULT = 0`, with `DONE` and `INFRAME` still as they
stood; after a bus primitive `DONE = 1`, with `INFRAME = 0` only between the two frames of READ_PAGE
(10_state.md rules R16, R26, R28; 41_page_client.md rules R93, R94; 92_eei_decisions.md D6). That a
malformed write is dropped then, and that `CMD` and `DEV_ADDR` cannot be read then, is the model's choice
(assumption log 20). -/
def Obligations.StatusBetweenPrimitives : Prop :=
  ∀ (s : State) (rest : List Happening), pageReady s →
    (∀ i : Instr, i = .readPage ∨ i = .writePage →
      servedWhileBusy i s (statusByte { s with busy := true }) interlude [] rest ∧
      servedWhileBusy i s (statusByte { s with busy := true, inited := true, result := .success })
        interlude [.between .go] rest) ∧
    (∀ answers : List (Nat × Answer), 1 ≤ answers.length → answers.length < s.ps.toNat + 5 →
      servedWhileBusy .writePage s 0x1B interlude (completions answers) rest) ∧
    (∀ setup : List (Nat × Answer), 1 ≤ setup.length → setup.length ≤ 7 →
      servedWhileBusy .readPage s (if setup.length = 5 then 0x13 else 0x1B) interlude
        (completions setup) rest) ∧
    (∀ setup reads : List (Nat × Answer), setup.length = 7 → reads.length ≤ s.ps.toNat →
      inBudget s.retryBudget reads →
      servedWhileBusy .readPage s 0x1B interlude (completions setup ++ completions reads) rest)

/-! ## Invariants -/

/-- The invariants hold after reset. -/
def Obligations.ResetMeetsTheInvariants : Prop :=
  MemoryInv State.reset ∧ HistoryInv State.reset ∧ SequencerInv State.reset ∧ FlagInv State.reset ∧
  TimeoutInv State.reset

/-- Every step keeps both byte memories in canonical form. -/
def Obligations.StepKeepsMemoryCanonical : Prop :=
  ∀ s t : State, MemoryInv s → step s = .next t → MemoryInv t

/-- Every step keeps `INFRAME` and `BUSY` what the history says, and unfinished events last (10_state.md
rules R19, R20; 00_scope.md rule R12). `BUSY` is 1 for the whole of a command by rule R19; that between two
steps it is 1 in a hang only is the model's choice, by which a command is one step (assumption log
18). -/
def Obligations.StepKeepsHistoryTrue : Prop :=
  ∀ s t : State, HistoryInv s → step s = .next t → HistoryInv t

/-- Every step keeps the sequencer idle exactly when no command is in progress, and a busy block with
`DONE = 0` (10_state.md rules R15, R16, R27). By rule R16 `DONE` is 1 between two primitives of a page
command, as `StatusBetweenPrimitives` says; that no state between two steps shows it is the model's
choice, by which a command is one step (assumption log 18). That no earlier transfer is outstanding in a
busy block is the model's choice too (assumption log 7). -/
def Obligations.StepKeepsTheSequencer : Prop :=
  ∀ s t : State, SequencerInv s → step s = .next t → SequencerInv t

/-- Every step keeps the flags consistent: timing configured once INIT has run, no frame before INIT,
no Failure without the frame it left open. -/
def Obligations.StepKeepsTheFlags : Prop :=
  ∀ s t : State, FlagInv s → step s = .next t → FlagInv t

/-- Every step keeps `CNT` within the budget (10_state.md rule R24) and one `RF` in the history for each
Bus Timeout (60_exceptions.md rule R105). The record `raised` of the Bus Timeouts, emptied by reset with
the history, is the model's own (assumption log 6). -/
def Obligations.StepKeepsTheTimeoutRecord : Prop :=
  ∀ s t : State, TimeoutInv s → step s = .next t → TimeoutInv t
end

