-- ==== Sys2Proof/Laws/State.lean ====
section
/-! SUPPORT. One lemma per field per named update of State, each true by `rfl`, so that no proof
unfolds a record update. -/

namespace Sys2Proof.Machine

/-! ## `memWrite` -/

@[simp] theorem memWrite_data (a : Nat) (b : Byte) (s : State) : (memWrite a b s).data = s.data := rfl
@[simp] theorem memWrite_pn (a : Nat) (b : Byte) (s : State) : (memWrite a b s).pn = s.pn := rfl
@[simp] theorem memWrite_ps (a : Nat) (b : Byte) (s : State) : (memWrite a b s).ps = s.ps := rfl
@[simp] theorem memWrite_buf (a : Nat) (b : Byte) (s : State) : (memWrite a b s).buf = s.buf := rfl
@[simp] theorem memWrite_addr (a : Nat) (b : Byte) (s : State) : (memWrite a b s).addr = s.addr := rfl
@[simp] theorem memWrite_written (a : Nat) (b : Byte) (s : State) : (memWrite a b s).written = s.written := rfl
@[simp] theorem memWrite_op (a : Nat) (b : Byte) (s : State) : (memWrite a b s).op = s.op := rfl
@[simp] theorem memWrite_seq (a : Nat) (b : Byte) (s : State) : (memWrite a b s).seq = s.seq := rfl
@[simp] theorem memWrite_idx (a : Nat) (b : Byte) (s : State) : (memWrite a b s).idx = s.idx := rfl
@[simp] theorem memWrite_done (a : Nat) (b : Byte) (s : State) : (memWrite a b s).done = s.done := rfl
@[simp] theorem memWrite_ackf (a : Nat) (b : Byte) (s : State) : (memWrite a b s).ackf = s.ackf := rfl
@[simp] theorem memWrite_result (a : Nat) (b : Byte) (s : State) : (memWrite a b s).result = s.result := rfl
@[simp] theorem memWrite_busy (a : Nat) (b : Byte) (s : State) : (memWrite a b s).busy = s.busy := rfl
@[simp] theorem memWrite_inframe (a : Nat) (b : Byte) (s : State) : (memWrite a b s).inframe = s.inframe := rfl
@[simp] theorem memWrite_inited (a : Nat) (b : Byte) (s : State) : (memWrite a b s).inited = s.inited := rfl
@[simp] theorem memWrite_cfgTiming (a : Nat) (b : Byte) (s : State) : (memWrite a b s).cfgTiming = s.cfgTiming := rfl
@[simp] theorem memWrite_retryBudget (a : Nat) (b : Byte) (s : State) : (memWrite a b s).retryBudget = s.retryBudget := rfl
@[simp] theorem memWrite_cnt (a : Nat) (b : Byte) (s : State) : (memWrite a b s).cnt = s.cnt := rfl
@[simp] theorem memWrite_trace (a : Nat) (b : Byte) (s : State) : (memWrite a b s).trace = s.trace := rfl
@[simp] theorem memWrite_raised (a : Nat) (b : Byte) (s : State) : (memWrite a b s).raised = s.raised := rfl
@[simp] theorem memWrite_late (a : Nat) (b : Byte) (s : State) : (memWrite a b s).late = s.late := rfl
@[simp] theorem memWrite_hostAw (a : Nat) (b : Byte) (s : State) : (memWrite a b s).hostAw = s.hostAw := rfl
@[simp] theorem memWrite_regBase (a : Nat) (b : Byte) (s : State) : (memWrite a b s).regBase = s.regBase := rfl
@[simp] theorem memWrite_hostMem (a : Nat) (b : Byte) (s : State) : (memWrite a b s).hostMem = Memory.write s.hostMem (hostAddress a s) b := rfl
@[simp] theorem memWrite_hostReads (a : Nat) (b : Byte) (s : State) : (memWrite a b s).hostReads = s.hostReads := rfl
@[simp] theorem memWrite_dev (a : Nat) (b : Byte) (s : State) : (memWrite a b s).dev = s.dev := rfl
@[simp] theorem memWrite_inputs (a : Nat) (b : Byte) (s : State) : (memWrite a b s).inputs = s.inputs := rfl
@[simp] theorem memWrite_env (a : Nat) (b : Byte) (s : State) : (memWrite a b s).env = s.env := rfl
@[simp] theorem memWrite_draws (a : Nat) (b : Byte) (s : State) : (memWrite a b s).draws = s.draws := rfl

/-! ## `drawn` -/

@[simp] theorem drawn_data (s : State) : (drawn s).data = s.data := rfl
@[simp] theorem drawn_pn (s : State) : (drawn s).pn = s.pn := rfl
@[simp] theorem drawn_ps (s : State) : (drawn s).ps = s.ps := rfl
@[simp] theorem drawn_buf (s : State) : (drawn s).buf = s.buf := rfl
@[simp] theorem drawn_addr (s : State) : (drawn s).addr = s.addr := rfl
@[simp] theorem drawn_written (s : State) : (drawn s).written = s.written := rfl
@[simp] theorem drawn_op (s : State) : (drawn s).op = s.op := rfl
@[simp] theorem drawn_seq (s : State) : (drawn s).seq = s.seq := rfl
@[simp] theorem drawn_idx (s : State) : (drawn s).idx = s.idx := rfl
@[simp] theorem drawn_done (s : State) : (drawn s).done = s.done := rfl
@[simp] theorem drawn_ackf (s : State) : (drawn s).ackf = s.ackf := rfl
@[simp] theorem drawn_result (s : State) : (drawn s).result = s.result := rfl
@[simp] theorem drawn_busy (s : State) : (drawn s).busy = s.busy := rfl
@[simp] theorem drawn_inframe (s : State) : (drawn s).inframe = s.inframe := rfl
@[simp] theorem drawn_inited (s : State) : (drawn s).inited = s.inited := rfl
@[simp] theorem drawn_cfgTiming (s : State) : (drawn s).cfgTiming = s.cfgTiming := rfl
@[simp] theorem drawn_retryBudget (s : State) : (drawn s).retryBudget = s.retryBudget := rfl
@[simp] theorem drawn_cnt (s : State) : (drawn s).cnt = s.cnt := rfl
@[simp] theorem drawn_trace (s : State) : (drawn s).trace = s.trace := rfl
@[simp] theorem drawn_raised (s : State) : (drawn s).raised = s.raised := rfl
@[simp] theorem drawn_late (s : State) : (drawn s).late = s.late := rfl
@[simp] theorem drawn_hostAw (s : State) : (drawn s).hostAw = s.hostAw := rfl
@[simp] theorem drawn_regBase (s : State) : (drawn s).regBase = s.regBase := rfl
@[simp] theorem drawn_hostMem (s : State) : (drawn s).hostMem = s.hostMem := rfl
@[simp] theorem drawn_hostReads (s : State) : (drawn s).hostReads = s.hostReads := rfl
@[simp] theorem drawn_dev (s : State) : (drawn s).dev = s.dev := rfl
@[simp] theorem drawn_inputs (s : State) : (drawn s).inputs = s.inputs := rfl
@[simp] theorem drawn_env (s : State) : (drawn s).env = s.env := rfl
@[simp] theorem drawn_draws (s : State) : (drawn s).draws = s.draws + 1 := rfl

/-! ## `emit` -/

@[simp] theorem emit_data (e : Event) (s : State) : (emit e s).data = s.data := rfl
@[simp] theorem emit_pn (e : Event) (s : State) : (emit e s).pn = s.pn := rfl
@[simp] theorem emit_ps (e : Event) (s : State) : (emit e s).ps = s.ps := rfl
@[simp] theorem emit_buf (e : Event) (s : State) : (emit e s).buf = s.buf := rfl
@[simp] theorem emit_addr (e : Event) (s : State) : (emit e s).addr = s.addr := rfl
@[simp] theorem emit_written (e : Event) (s : State) : (emit e s).written = s.written := rfl
@[simp] theorem emit_op (e : Event) (s : State) : (emit e s).op = s.op := rfl
@[simp] theorem emit_seq (e : Event) (s : State) : (emit e s).seq = s.seq := rfl
@[simp] theorem emit_idx (e : Event) (s : State) : (emit e s).idx = s.idx := rfl
@[simp] theorem emit_done (e : Event) (s : State) : (emit e s).done = s.done := rfl
@[simp] theorem emit_ackf (e : Event) (s : State) : (emit e s).ackf = s.ackf := rfl
@[simp] theorem emit_result (e : Event) (s : State) : (emit e s).result = s.result := rfl
@[simp] theorem emit_busy (e : Event) (s : State) : (emit e s).busy = s.busy := rfl
@[simp] theorem emit_inframe (e : Event) (s : State) : (emit e s).inframe = s.inframe := rfl
@[simp] theorem emit_inited (e : Event) (s : State) : (emit e s).inited = s.inited := rfl
@[simp] theorem emit_cfgTiming (e : Event) (s : State) : (emit e s).cfgTiming = s.cfgTiming := rfl
@[simp] theorem emit_retryBudget (e : Event) (s : State) : (emit e s).retryBudget = s.retryBudget := rfl
@[simp] theorem emit_cnt (e : Event) (s : State) : (emit e s).cnt = s.cnt := rfl
@[simp] theorem emit_trace (e : Event) (s : State) : (emit e s).trace = s.trace ++ [e] := rfl
@[simp] theorem emit_raised (e : Event) (s : State) : (emit e s).raised = s.raised := rfl
@[simp] theorem emit_late (e : Event) (s : State) : (emit e s).late = s.late := rfl
@[simp] theorem emit_hostAw (e : Event) (s : State) : (emit e s).hostAw = s.hostAw := rfl
@[simp] theorem emit_regBase (e : Event) (s : State) : (emit e s).regBase = s.regBase := rfl
@[simp] theorem emit_hostMem (e : Event) (s : State) : (emit e s).hostMem = s.hostMem := rfl
@[simp] theorem emit_hostReads (e : Event) (s : State) : (emit e s).hostReads = s.hostReads := rfl
@[simp] theorem emit_dev (e : Event) (s : State) : (emit e s).dev = s.dev := rfl
@[simp] theorem emit_inputs (e : Event) (s : State) : (emit e s).inputs = s.inputs := rfl
@[simp] theorem emit_env (e : Event) (s : State) : (emit e s).env = s.env := rfl
@[simp] theorem emit_draws (e : Event) (s : State) : (emit e s).draws = s.draws := rfl

/-! ## `setData` -/

@[simp] theorem setData_data (b : Byte) (s : State) : (setData b s).data = b := rfl
@[simp] theorem setData_pn (b : Byte) (s : State) : (setData b s).pn = s.pn := rfl
@[simp] theorem setData_ps (b : Byte) (s : State) : (setData b s).ps = s.ps := rfl
@[simp] theorem setData_buf (b : Byte) (s : State) : (setData b s).buf = s.buf := rfl
@[simp] theorem setData_addr (b : Byte) (s : State) : (setData b s).addr = s.addr := rfl
@[simp] theorem setData_written (b : Byte) (s : State) : (setData b s).written = { s.written with data := true } := rfl
@[simp] theorem setData_op (b : Byte) (s : State) : (setData b s).op = s.op := rfl
@[simp] theorem setData_seq (b : Byte) (s : State) : (setData b s).seq = s.seq := rfl
@[simp] theorem setData_idx (b : Byte) (s : State) : (setData b s).idx = s.idx := rfl
@[simp] theorem setData_done (b : Byte) (s : State) : (setData b s).done = s.done := rfl
@[simp] theorem setData_ackf (b : Byte) (s : State) : (setData b s).ackf = s.ackf := rfl
@[simp] theorem setData_result (b : Byte) (s : State) : (setData b s).result = s.result := rfl
@[simp] theorem setData_busy (b : Byte) (s : State) : (setData b s).busy = s.busy := rfl
@[simp] theorem setData_inframe (b : Byte) (s : State) : (setData b s).inframe = s.inframe := rfl
@[simp] theorem setData_inited (b : Byte) (s : State) : (setData b s).inited = s.inited := rfl
@[simp] theorem setData_cfgTiming (b : Byte) (s : State) : (setData b s).cfgTiming = s.cfgTiming := rfl
@[simp] theorem setData_retryBudget (b : Byte) (s : State) : (setData b s).retryBudget = s.retryBudget := rfl
@[simp] theorem setData_cnt (b : Byte) (s : State) : (setData b s).cnt = s.cnt := rfl
@[simp] theorem setData_trace (b : Byte) (s : State) : (setData b s).trace = s.trace := rfl
@[simp] theorem setData_raised (b : Byte) (s : State) : (setData b s).raised = s.raised := rfl
@[simp] theorem setData_late (b : Byte) (s : State) : (setData b s).late = s.late := rfl
@[simp] theorem setData_hostAw (b : Byte) (s : State) : (setData b s).hostAw = s.hostAw := rfl
@[simp] theorem setData_regBase (b : Byte) (s : State) : (setData b s).regBase = s.regBase := rfl
@[simp] theorem setData_hostMem (b : Byte) (s : State) : (setData b s).hostMem = s.hostMem := rfl
@[simp] theorem setData_hostReads (b : Byte) (s : State) : (setData b s).hostReads = s.hostReads := rfl
@[simp] theorem setData_dev (b : Byte) (s : State) : (setData b s).dev = s.dev := rfl
@[simp] theorem setData_inputs (b : Byte) (s : State) : (setData b s).inputs = s.inputs := rfl
@[simp] theorem setData_env (b : Byte) (s : State) : (setData b s).env = s.env := rfl
@[simp] theorem setData_draws (b : Byte) (s : State) : (setData b s).draws = s.draws := rfl

/-! ## `setSeq` -/

@[simp] theorem setSeq_data (n : BitVec 3) (s : State) : (setSeq n s).data = s.data := rfl
@[simp] theorem setSeq_pn (n : BitVec 3) (s : State) : (setSeq n s).pn = s.pn := rfl
@[simp] theorem setSeq_ps (n : BitVec 3) (s : State) : (setSeq n s).ps = s.ps := rfl
@[simp] theorem setSeq_buf (n : BitVec 3) (s : State) : (setSeq n s).buf = s.buf := rfl
@[simp] theorem setSeq_addr (n : BitVec 3) (s : State) : (setSeq n s).addr = s.addr := rfl
@[simp] theorem setSeq_written (n : BitVec 3) (s : State) : (setSeq n s).written = s.written := rfl
@[simp] theorem setSeq_op (n : BitVec 3) (s : State) : (setSeq n s).op = s.op := rfl
@[simp] theorem setSeq_seq (n : BitVec 3) (s : State) : (setSeq n s).seq = n := rfl
@[simp] theorem setSeq_idx (n : BitVec 3) (s : State) : (setSeq n s).idx = s.idx := rfl
@[simp] theorem setSeq_done (n : BitVec 3) (s : State) : (setSeq n s).done = s.done := rfl
@[simp] theorem setSeq_ackf (n : BitVec 3) (s : State) : (setSeq n s).ackf = s.ackf := rfl
@[simp] theorem setSeq_result (n : BitVec 3) (s : State) : (setSeq n s).result = s.result := rfl
@[simp] theorem setSeq_busy (n : BitVec 3) (s : State) : (setSeq n s).busy = s.busy := rfl
@[simp] theorem setSeq_inframe (n : BitVec 3) (s : State) : (setSeq n s).inframe = s.inframe := rfl
@[simp] theorem setSeq_inited (n : BitVec 3) (s : State) : (setSeq n s).inited = s.inited := rfl
@[simp] theorem setSeq_cfgTiming (n : BitVec 3) (s : State) : (setSeq n s).cfgTiming = s.cfgTiming := rfl
@[simp] theorem setSeq_retryBudget (n : BitVec 3) (s : State) : (setSeq n s).retryBudget = s.retryBudget := rfl
@[simp] theorem setSeq_cnt (n : BitVec 3) (s : State) : (setSeq n s).cnt = s.cnt := rfl
@[simp] theorem setSeq_trace (n : BitVec 3) (s : State) : (setSeq n s).trace = s.trace := rfl
@[simp] theorem setSeq_raised (n : BitVec 3) (s : State) : (setSeq n s).raised = s.raised := rfl
@[simp] theorem setSeq_late (n : BitVec 3) (s : State) : (setSeq n s).late = s.late := rfl
@[simp] theorem setSeq_hostAw (n : BitVec 3) (s : State) : (setSeq n s).hostAw = s.hostAw := rfl
@[simp] theorem setSeq_regBase (n : BitVec 3) (s : State) : (setSeq n s).regBase = s.regBase := rfl
@[simp] theorem setSeq_hostMem (n : BitVec 3) (s : State) : (setSeq n s).hostMem = s.hostMem := rfl
@[simp] theorem setSeq_hostReads (n : BitVec 3) (s : State) : (setSeq n s).hostReads = s.hostReads := rfl
@[simp] theorem setSeq_dev (n : BitVec 3) (s : State) : (setSeq n s).dev = s.dev := rfl
@[simp] theorem setSeq_inputs (n : BitVec 3) (s : State) : (setSeq n s).inputs = s.inputs := rfl
@[simp] theorem setSeq_env (n : BitVec 3) (s : State) : (setSeq n s).env = s.env := rfl
@[simp] theorem setSeq_draws (n : BitVec 3) (s : State) : (setSeq n s).draws = s.draws := rfl

/-! ## `setIdx` -/

@[simp] theorem setIdx_data (n : Word) (s : State) : (setIdx n s).data = s.data := rfl
@[simp] theorem setIdx_pn (n : Word) (s : State) : (setIdx n s).pn = s.pn := rfl
@[simp] theorem setIdx_ps (n : Word) (s : State) : (setIdx n s).ps = s.ps := rfl
@[simp] theorem setIdx_buf (n : Word) (s : State) : (setIdx n s).buf = s.buf := rfl
@[simp] theorem setIdx_addr (n : Word) (s : State) : (setIdx n s).addr = s.addr := rfl
@[simp] theorem setIdx_written (n : Word) (s : State) : (setIdx n s).written = s.written := rfl
@[simp] theorem setIdx_op (n : Word) (s : State) : (setIdx n s).op = s.op := rfl
@[simp] theorem setIdx_seq (n : Word) (s : State) : (setIdx n s).seq = s.seq := rfl
@[simp] theorem setIdx_idx (n : Word) (s : State) : (setIdx n s).idx = n := rfl
@[simp] theorem setIdx_done (n : Word) (s : State) : (setIdx n s).done = s.done := rfl
@[simp] theorem setIdx_ackf (n : Word) (s : State) : (setIdx n s).ackf = s.ackf := rfl
@[simp] theorem setIdx_result (n : Word) (s : State) : (setIdx n s).result = s.result := rfl
@[simp] theorem setIdx_busy (n : Word) (s : State) : (setIdx n s).busy = s.busy := rfl
@[simp] theorem setIdx_inframe (n : Word) (s : State) : (setIdx n s).inframe = s.inframe := rfl
@[simp] theorem setIdx_inited (n : Word) (s : State) : (setIdx n s).inited = s.inited := rfl
@[simp] theorem setIdx_cfgTiming (n : Word) (s : State) : (setIdx n s).cfgTiming = s.cfgTiming := rfl
@[simp] theorem setIdx_retryBudget (n : Word) (s : State) : (setIdx n s).retryBudget = s.retryBudget := rfl
@[simp] theorem setIdx_cnt (n : Word) (s : State) : (setIdx n s).cnt = s.cnt := rfl
@[simp] theorem setIdx_trace (n : Word) (s : State) : (setIdx n s).trace = s.trace := rfl
@[simp] theorem setIdx_raised (n : Word) (s : State) : (setIdx n s).raised = s.raised := rfl
@[simp] theorem setIdx_late (n : Word) (s : State) : (setIdx n s).late = s.late := rfl
@[simp] theorem setIdx_hostAw (n : Word) (s : State) : (setIdx n s).hostAw = s.hostAw := rfl
@[simp] theorem setIdx_regBase (n : Word) (s : State) : (setIdx n s).regBase = s.regBase := rfl
@[simp] theorem setIdx_hostMem (n : Word) (s : State) : (setIdx n s).hostMem = s.hostMem := rfl
@[simp] theorem setIdx_hostReads (n : Word) (s : State) : (setIdx n s).hostReads = s.hostReads := rfl
@[simp] theorem setIdx_dev (n : Word) (s : State) : (setIdx n s).dev = s.dev := rfl
@[simp] theorem setIdx_inputs (n : Word) (s : State) : (setIdx n s).inputs = s.inputs := rfl
@[simp] theorem setIdx_env (n : Word) (s : State) : (setIdx n s).env = s.env := rfl
@[simp] theorem setIdx_draws (n : Word) (s : State) : (setIdx n s).draws = s.draws := rfl

/-! ## `launch` -/

@[simp] theorem launch_data (i : Instr) (s : State) : (launch i s).data = s.data := rfl
@[simp] theorem launch_pn (i : Instr) (s : State) : (launch i s).pn = s.pn := rfl
@[simp] theorem launch_ps (i : Instr) (s : State) : (launch i s).ps = s.ps := rfl
@[simp] theorem launch_buf (i : Instr) (s : State) : (launch i s).buf = s.buf := rfl
@[simp] theorem launch_addr (i : Instr) (s : State) : (launch i s).addr = s.addr := rfl
@[simp] theorem launch_written (i : Instr) (s : State) : (launch i s).written = s.written := rfl
@[simp] theorem launch_op (i : Instr) (s : State) : (launch i s).op = some (opcodeOf i) := rfl
@[simp] theorem launch_seq (i : Instr) (s : State) : (launch i s).seq = s.seq := rfl
@[simp] theorem launch_idx (i : Instr) (s : State) : (launch i s).idx = s.idx := rfl
@[simp] theorem launch_done (i : Instr) (s : State) : (launch i s).done = s.done := rfl
@[simp] theorem launch_ackf (i : Instr) (s : State) : (launch i s).ackf = s.ackf := rfl
@[simp] theorem launch_result (i : Instr) (s : State) : (launch i s).result = s.result := rfl
@[simp] theorem launch_busy (i : Instr) (s : State) : (launch i s).busy = true := rfl
@[simp] theorem launch_inframe (i : Instr) (s : State) : (launch i s).inframe = s.inframe := rfl
@[simp] theorem launch_inited (i : Instr) (s : State) : (launch i s).inited = s.inited := rfl
@[simp] theorem launch_cfgTiming (i : Instr) (s : State) : (launch i s).cfgTiming = s.cfgTiming := rfl
@[simp] theorem launch_retryBudget (i : Instr) (s : State) : (launch i s).retryBudget = s.retryBudget := rfl
@[simp] theorem launch_cnt (i : Instr) (s : State) : (launch i s).cnt = s.cnt := rfl
@[simp] theorem launch_trace (i : Instr) (s : State) : (launch i s).trace = s.trace := rfl
@[simp] theorem launch_raised (i : Instr) (s : State) : (launch i s).raised = s.raised := rfl
@[simp] theorem launch_late (i : Instr) (s : State) : (launch i s).late = s.late := rfl
@[simp] theorem launch_hostAw (i : Instr) (s : State) : (launch i s).hostAw = s.hostAw := rfl
@[simp] theorem launch_regBase (i : Instr) (s : State) : (launch i s).regBase = s.regBase := rfl
@[simp] theorem launch_hostMem (i : Instr) (s : State) : (launch i s).hostMem = s.hostMem := rfl
@[simp] theorem launch_hostReads (i : Instr) (s : State) : (launch i s).hostReads = s.hostReads := rfl
@[simp] theorem launch_dev (i : Instr) (s : State) : (launch i s).dev = s.dev := rfl
@[simp] theorem launch_inputs (i : Instr) (s : State) : (launch i s).inputs = s.inputs := rfl
@[simp] theorem launch_env (i : Instr) (s : State) : (launch i s).env = s.env := rfl
@[simp] theorem launch_draws (i : Instr) (s : State) : (launch i s).draws = s.draws := rfl

/-! ## `finish` -/

@[simp] theorem finish_data (s : State) : (finish s).data = s.data := rfl
@[simp] theorem finish_pn (s : State) : (finish s).pn = s.pn := rfl
@[simp] theorem finish_ps (s : State) : (finish s).ps = s.ps := rfl
@[simp] theorem finish_buf (s : State) : (finish s).buf = s.buf := rfl
@[simp] theorem finish_addr (s : State) : (finish s).addr = s.addr := rfl
@[simp] theorem finish_written (s : State) : (finish s).written = s.written := rfl
@[simp] theorem finish_op (s : State) : (finish s).op = none := rfl
@[simp] theorem finish_seq (s : State) : (finish s).seq = 0 := rfl
@[simp] theorem finish_idx (s : State) : (finish s).idx = s.idx := rfl
@[simp] theorem finish_done (s : State) : (finish s).done = s.done := rfl
@[simp] theorem finish_ackf (s : State) : (finish s).ackf = s.ackf := rfl
@[simp] theorem finish_result (s : State) : (finish s).result = s.result := rfl
@[simp] theorem finish_busy (s : State) : (finish s).busy = false := rfl
@[simp] theorem finish_inframe (s : State) : (finish s).inframe = s.inframe := rfl
@[simp] theorem finish_inited (s : State) : (finish s).inited = s.inited := rfl
@[simp] theorem finish_cfgTiming (s : State) : (finish s).cfgTiming = s.cfgTiming := rfl
@[simp] theorem finish_retryBudget (s : State) : (finish s).retryBudget = s.retryBudget := rfl
@[simp] theorem finish_cnt (s : State) : (finish s).cnt = s.cnt := rfl
@[simp] theorem finish_trace (s : State) : (finish s).trace = s.trace := rfl
@[simp] theorem finish_raised (s : State) : (finish s).raised = s.raised := rfl
@[simp] theorem finish_late (s : State) : (finish s).late = s.late := rfl
@[simp] theorem finish_hostAw (s : State) : (finish s).hostAw = s.hostAw := rfl
@[simp] theorem finish_regBase (s : State) : (finish s).regBase = s.regBase := rfl
@[simp] theorem finish_hostMem (s : State) : (finish s).hostMem = s.hostMem := rfl
@[simp] theorem finish_hostReads (s : State) : (finish s).hostReads = s.hostReads := rfl
@[simp] theorem finish_dev (s : State) : (finish s).dev = s.dev := rfl
@[simp] theorem finish_inputs (s : State) : (finish s).inputs = s.inputs := rfl
@[simp] theorem finish_env (s : State) : (finish s).env = s.env := rfl
@[simp] theorem finish_draws (s : State) : (finish s).draws = s.draws := rfl

/-! ## `clearDone` -/

@[simp] theorem clearDone_data (s : State) : (clearDone s).data = s.data := rfl
@[simp] theorem clearDone_pn (s : State) : (clearDone s).pn = s.pn := rfl
@[simp] theorem clearDone_ps (s : State) : (clearDone s).ps = s.ps := rfl
@[simp] theorem clearDone_buf (s : State) : (clearDone s).buf = s.buf := rfl
@[simp] theorem clearDone_addr (s : State) : (clearDone s).addr = s.addr := rfl
@[simp] theorem clearDone_written (s : State) : (clearDone s).written = s.written := rfl
@[simp] theorem clearDone_op (s : State) : (clearDone s).op = s.op := rfl
@[simp] theorem clearDone_seq (s : State) : (clearDone s).seq = s.seq := rfl
@[simp] theorem clearDone_idx (s : State) : (clearDone s).idx = s.idx := rfl
@[simp] theorem clearDone_done (s : State) : (clearDone s).done = false := rfl
@[simp] theorem clearDone_ackf (s : State) : (clearDone s).ackf = s.ackf := rfl
@[simp] theorem clearDone_result (s : State) : (clearDone s).result = s.result := rfl
@[simp] theorem clearDone_busy (s : State) : (clearDone s).busy = s.busy := rfl
@[simp] theorem clearDone_inframe (s : State) : (clearDone s).inframe = s.inframe := rfl
@[simp] theorem clearDone_inited (s : State) : (clearDone s).inited = s.inited := rfl
@[simp] theorem clearDone_cfgTiming (s : State) : (clearDone s).cfgTiming = s.cfgTiming := rfl
@[simp] theorem clearDone_retryBudget (s : State) : (clearDone s).retryBudget = s.retryBudget := rfl
@[simp] theorem clearDone_cnt (s : State) : (clearDone s).cnt = s.cnt := rfl
@[simp] theorem clearDone_trace (s : State) : (clearDone s).trace = s.trace := rfl
@[simp] theorem clearDone_raised (s : State) : (clearDone s).raised = s.raised := rfl
@[simp] theorem clearDone_late (s : State) : (clearDone s).late = false := rfl
@[simp] theorem clearDone_hostAw (s : State) : (clearDone s).hostAw = s.hostAw := rfl
@[simp] theorem clearDone_regBase (s : State) : (clearDone s).regBase = s.regBase := rfl
@[simp] theorem clearDone_hostMem (s : State) : (clearDone s).hostMem = s.hostMem := rfl
@[simp] theorem clearDone_hostReads (s : State) : (clearDone s).hostReads = s.hostReads := rfl
@[simp] theorem clearDone_dev (s : State) : (clearDone s).dev = s.dev := rfl
@[simp] theorem clearDone_inputs (s : State) : (clearDone s).inputs = s.inputs := rfl
@[simp] theorem clearDone_env (s : State) : (clearDone s).env = s.env := rfl
@[simp] theorem clearDone_draws (s : State) : (clearDone s).draws = s.draws := rfl

/-! ## `markReceived` -/

@[simp] theorem markReceived_data (cnt : BitVec 32) (s : State) : (markReceived cnt s).data = s.data := rfl
@[simp] theorem markReceived_pn (cnt : BitVec 32) (s : State) : (markReceived cnt s).pn = s.pn := rfl
@[simp] theorem markReceived_ps (cnt : BitVec 32) (s : State) : (markReceived cnt s).ps = s.ps := rfl
@[simp] theorem markReceived_buf (cnt : BitVec 32) (s : State) : (markReceived cnt s).buf = s.buf := rfl
@[simp] theorem markReceived_addr (cnt : BitVec 32) (s : State) : (markReceived cnt s).addr = s.addr := rfl
@[simp] theorem markReceived_written (cnt : BitVec 32) (s : State) : (markReceived cnt s).written = s.written := rfl
@[simp] theorem markReceived_op (cnt : BitVec 32) (s : State) : (markReceived cnt s).op = s.op := rfl
@[simp] theorem markReceived_seq (cnt : BitVec 32) (s : State) : (markReceived cnt s).seq = s.seq := rfl
@[simp] theorem markReceived_idx (cnt : BitVec 32) (s : State) : (markReceived cnt s).idx = s.idx := rfl
@[simp] theorem markReceived_done (cnt : BitVec 32) (s : State) : (markReceived cnt s).done = true := rfl
@[simp] theorem markReceived_ackf (cnt : BitVec 32) (s : State) : (markReceived cnt s).ackf = s.ackf := rfl
@[simp] theorem markReceived_result (cnt : BitVec 32) (s : State) : (markReceived cnt s).result = .success := rfl
@[simp] theorem markReceived_busy (cnt : BitVec 32) (s : State) : (markReceived cnt s).busy = s.busy := rfl
@[simp] theorem markReceived_inframe (cnt : BitVec 32) (s : State) : (markReceived cnt s).inframe = s.inframe := rfl
@[simp] theorem markReceived_inited (cnt : BitVec 32) (s : State) : (markReceived cnt s).inited = s.inited := rfl
@[simp] theorem markReceived_cfgTiming (cnt : BitVec 32) (s : State) : (markReceived cnt s).cfgTiming = s.cfgTiming := rfl
@[simp] theorem markReceived_retryBudget (cnt : BitVec 32) (s : State) : (markReceived cnt s).retryBudget = s.retryBudget := rfl
@[simp] theorem markReceived_cnt (cnt : BitVec 32) (s : State) : (markReceived cnt s).cnt = cnt := rfl
@[simp] theorem markReceived_trace (cnt : BitVec 32) (s : State) : (markReceived cnt s).trace = s.trace := rfl
@[simp] theorem markReceived_raised (cnt : BitVec 32) (s : State) : (markReceived cnt s).raised = s.raised := rfl
@[simp] theorem markReceived_late (cnt : BitVec 32) (s : State) : (markReceived cnt s).late = s.late := rfl
@[simp] theorem markReceived_hostAw (cnt : BitVec 32) (s : State) : (markReceived cnt s).hostAw = s.hostAw := rfl
@[simp] theorem markReceived_regBase (cnt : BitVec 32) (s : State) : (markReceived cnt s).regBase = s.regBase := rfl
@[simp] theorem markReceived_hostMem (cnt : BitVec 32) (s : State) : (markReceived cnt s).hostMem = s.hostMem := rfl
@[simp] theorem markReceived_hostReads (cnt : BitVec 32) (s : State) : (markReceived cnt s).hostReads = s.hostReads := rfl
@[simp] theorem markReceived_dev (cnt : BitVec 32) (s : State) : (markReceived cnt s).dev = s.dev := rfl
@[simp] theorem markReceived_inputs (cnt : BitVec 32) (s : State) : (markReceived cnt s).inputs = s.inputs := rfl
@[simp] theorem markReceived_env (cnt : BitVec 32) (s : State) : (markReceived cnt s).env = s.env := rfl
@[simp] theorem markReceived_draws (cnt : BitVec 32) (s : State) : (markReceived cnt s).draws = s.draws := rfl

/-! ## `configure` -/

@[simp] theorem configure_data (s : State) : (configure s).data = s.data := rfl
@[simp] theorem configure_pn (s : State) : (configure s).pn = s.pn := rfl
@[simp] theorem configure_ps (s : State) : (configure s).ps = s.ps := rfl
@[simp] theorem configure_buf (s : State) : (configure s).buf = s.buf := rfl
@[simp] theorem configure_addr (s : State) : (configure s).addr = s.addr := rfl
@[simp] theorem configure_written (s : State) : (configure s).written = s.written := rfl
@[simp] theorem configure_op (s : State) : (configure s).op = s.op := rfl
@[simp] theorem configure_seq (s : State) : (configure s).seq = s.seq := rfl
@[simp] theorem configure_idx (s : State) : (configure s).idx = s.idx := rfl
@[simp] theorem configure_done (s : State) : (configure s).done = s.done := rfl
@[simp] theorem configure_ackf (s : State) : (configure s).ackf = s.ackf := rfl
@[simp] theorem configure_result (s : State) : (configure s).result = .success := rfl
@[simp] theorem configure_busy (s : State) : (configure s).busy = s.busy := rfl
@[simp] theorem configure_inframe (s : State) : (configure s).inframe = s.inframe := rfl
@[simp] theorem configure_inited (s : State) : (configure s).inited = true := rfl
@[simp] theorem configure_cfgTiming (s : State) : (configure s).cfgTiming = Config.timingValue := rfl
@[simp] theorem configure_retryBudget (s : State) : (configure s).retryBudget = s.retryBudget := rfl
@[simp] theorem configure_cnt (s : State) : (configure s).cnt = s.cnt := rfl
@[simp] theorem configure_trace (s : State) : (configure s).trace = s.trace := rfl
@[simp] theorem configure_raised (s : State) : (configure s).raised = s.raised := rfl
@[simp] theorem configure_late (s : State) : (configure s).late = s.late := rfl
@[simp] theorem configure_hostAw (s : State) : (configure s).hostAw = s.hostAw := rfl
@[simp] theorem configure_regBase (s : State) : (configure s).regBase = s.regBase := rfl
@[simp] theorem configure_hostMem (s : State) : (configure s).hostMem = s.hostMem := rfl
@[simp] theorem configure_hostReads (s : State) : (configure s).hostReads = s.hostReads := rfl
@[simp] theorem configure_dev (s : State) : (configure s).dev = s.dev := rfl
@[simp] theorem configure_inputs (s : State) : (configure s).inputs = s.inputs := rfl
@[simp] theorem configure_env (s : State) : (configure s).env = s.env := rfl
@[simp] theorem configure_draws (s : State) : (configure s).draws = s.draws := rfl

/-! ## `translate` -/

@[simp] theorem translate_data (s : State) : (translate s).data = s.data := rfl
@[simp] theorem translate_pn (s : State) : (translate s).pn = s.pn := rfl
@[simp] theorem translate_ps (s : State) : (translate s).ps = s.ps := rfl
@[simp] theorem translate_buf (s : State) : (translate s).buf = s.buf := rfl
@[simp] theorem translate_addr (s : State) : (translate s).addr = pageAddress s.pn s.ps := rfl
@[simp] theorem translate_written (s : State) : (translate s).written = { s.written with addr := true } := rfl
@[simp] theorem translate_op (s : State) : (translate s).op = s.op := rfl
@[simp] theorem translate_seq (s : State) : (translate s).seq = s.seq := rfl
@[simp] theorem translate_idx (s : State) : (translate s).idx = s.idx := rfl
@[simp] theorem translate_done (s : State) : (translate s).done = s.done := rfl
@[simp] theorem translate_ackf (s : State) : (translate s).ackf = s.ackf := rfl
@[simp] theorem translate_result (s : State) : (translate s).result = s.result := rfl
@[simp] theorem translate_busy (s : State) : (translate s).busy = s.busy := rfl
@[simp] theorem translate_inframe (s : State) : (translate s).inframe = s.inframe := rfl
@[simp] theorem translate_inited (s : State) : (translate s).inited = s.inited := rfl
@[simp] theorem translate_cfgTiming (s : State) : (translate s).cfgTiming = s.cfgTiming := rfl
@[simp] theorem translate_retryBudget (s : State) : (translate s).retryBudget = s.retryBudget := rfl
@[simp] theorem translate_cnt (s : State) : (translate s).cnt = s.cnt := rfl
@[simp] theorem translate_trace (s : State) : (translate s).trace = s.trace := rfl
@[simp] theorem translate_raised (s : State) : (translate s).raised = s.raised := rfl
@[simp] theorem translate_late (s : State) : (translate s).late = s.late := rfl
@[simp] theorem translate_hostAw (s : State) : (translate s).hostAw = s.hostAw := rfl
@[simp] theorem translate_regBase (s : State) : (translate s).regBase = s.regBase := rfl
@[simp] theorem translate_hostMem (s : State) : (translate s).hostMem = s.hostMem := rfl
@[simp] theorem translate_hostReads (s : State) : (translate s).hostReads = s.hostReads := rfl
@[simp] theorem translate_dev (s : State) : (translate s).dev = s.dev := rfl
@[simp] theorem translate_inputs (s : State) : (translate s).inputs = s.inputs := rfl
@[simp] theorem translate_env (s : State) : (translate s).env = s.env := rfl
@[simp] theorem translate_draws (s : State) : (translate s).draws = s.draws := rfl

/-! ## `setDev` -/

@[simp] theorem setDev_data (d : Device) (s : State) : (setDev d s).data = s.data := rfl
@[simp] theorem setDev_pn (d : Device) (s : State) : (setDev d s).pn = s.pn := rfl
@[simp] theorem setDev_ps (d : Device) (s : State) : (setDev d s).ps = s.ps := rfl
@[simp] theorem setDev_buf (d : Device) (s : State) : (setDev d s).buf = s.buf := rfl
@[simp] theorem setDev_addr (d : Device) (s : State) : (setDev d s).addr = s.addr := rfl
@[simp] theorem setDev_written (d : Device) (s : State) : (setDev d s).written = s.written := rfl
@[simp] theorem setDev_op (d : Device) (s : State) : (setDev d s).op = s.op := rfl
@[simp] theorem setDev_seq (d : Device) (s : State) : (setDev d s).seq = s.seq := rfl
@[simp] theorem setDev_idx (d : Device) (s : State) : (setDev d s).idx = s.idx := rfl
@[simp] theorem setDev_done (d : Device) (s : State) : (setDev d s).done = s.done := rfl
@[simp] theorem setDev_ackf (d : Device) (s : State) : (setDev d s).ackf = s.ackf := rfl
@[simp] theorem setDev_result (d : Device) (s : State) : (setDev d s).result = s.result := rfl
@[simp] theorem setDev_busy (d : Device) (s : State) : (setDev d s).busy = s.busy := rfl
@[simp] theorem setDev_inframe (d : Device) (s : State) : (setDev d s).inframe = s.inframe := rfl
@[simp] theorem setDev_inited (d : Device) (s : State) : (setDev d s).inited = s.inited := rfl
@[simp] theorem setDev_cfgTiming (d : Device) (s : State) : (setDev d s).cfgTiming = s.cfgTiming := rfl
@[simp] theorem setDev_retryBudget (d : Device) (s : State) : (setDev d s).retryBudget = s.retryBudget := rfl
@[simp] theorem setDev_cnt (d : Device) (s : State) : (setDev d s).cnt = s.cnt := rfl
@[simp] theorem setDev_trace (d : Device) (s : State) : (setDev d s).trace = s.trace := rfl
@[simp] theorem setDev_raised (d : Device) (s : State) : (setDev d s).raised = s.raised := rfl
@[simp] theorem setDev_late (d : Device) (s : State) : (setDev d s).late = s.late := rfl
@[simp] theorem setDev_hostAw (d : Device) (s : State) : (setDev d s).hostAw = s.hostAw := rfl
@[simp] theorem setDev_regBase (d : Device) (s : State) : (setDev d s).regBase = s.regBase := rfl
@[simp] theorem setDev_hostMem (d : Device) (s : State) : (setDev d s).hostMem = s.hostMem := rfl
@[simp] theorem setDev_hostReads (d : Device) (s : State) : (setDev d s).hostReads = s.hostReads := rfl
@[simp] theorem setDev_dev (d : Device) (s : State) : (setDev d s).dev = d := rfl
@[simp] theorem setDev_inputs (d : Device) (s : State) : (setDev d s).inputs = s.inputs := rfl
@[simp] theorem setDev_env (d : Device) (s : State) : (setDev d s).env = s.env := rfl
@[simp] theorem setDev_draws (d : Device) (s : State) : (setDev d s).draws = s.draws := rfl

/-! ## `hostGets` -/

@[simp] theorem hostGets_data (v : Nat) (s : State) : (hostGets v s).data = s.data := rfl
@[simp] theorem hostGets_pn (v : Nat) (s : State) : (hostGets v s).pn = s.pn := rfl
@[simp] theorem hostGets_ps (v : Nat) (s : State) : (hostGets v s).ps = s.ps := rfl
@[simp] theorem hostGets_buf (v : Nat) (s : State) : (hostGets v s).buf = s.buf := rfl
@[simp] theorem hostGets_addr (v : Nat) (s : State) : (hostGets v s).addr = s.addr := rfl
@[simp] theorem hostGets_written (v : Nat) (s : State) : (hostGets v s).written = s.written := rfl
@[simp] theorem hostGets_op (v : Nat) (s : State) : (hostGets v s).op = s.op := rfl
@[simp] theorem hostGets_seq (v : Nat) (s : State) : (hostGets v s).seq = s.seq := rfl
@[simp] theorem hostGets_idx (v : Nat) (s : State) : (hostGets v s).idx = s.idx := rfl
@[simp] theorem hostGets_done (v : Nat) (s : State) : (hostGets v s).done = s.done := rfl
@[simp] theorem hostGets_ackf (v : Nat) (s : State) : (hostGets v s).ackf = s.ackf := rfl
@[simp] theorem hostGets_result (v : Nat) (s : State) : (hostGets v s).result = s.result := rfl
@[simp] theorem hostGets_busy (v : Nat) (s : State) : (hostGets v s).busy = s.busy := rfl
@[simp] theorem hostGets_inframe (v : Nat) (s : State) : (hostGets v s).inframe = s.inframe := rfl
@[simp] theorem hostGets_inited (v : Nat) (s : State) : (hostGets v s).inited = s.inited := rfl
@[simp] theorem hostGets_cfgTiming (v : Nat) (s : State) : (hostGets v s).cfgTiming = s.cfgTiming := rfl
@[simp] theorem hostGets_retryBudget (v : Nat) (s : State) : (hostGets v s).retryBudget = s.retryBudget := rfl
@[simp] theorem hostGets_cnt (v : Nat) (s : State) : (hostGets v s).cnt = s.cnt := rfl
@[simp] theorem hostGets_trace (v : Nat) (s : State) : (hostGets v s).trace = s.trace := rfl
@[simp] theorem hostGets_raised (v : Nat) (s : State) : (hostGets v s).raised = s.raised := rfl
@[simp] theorem hostGets_late (v : Nat) (s : State) : (hostGets v s).late = s.late := rfl
@[simp] theorem hostGets_hostAw (v : Nat) (s : State) : (hostGets v s).hostAw = s.hostAw := rfl
@[simp] theorem hostGets_regBase (v : Nat) (s : State) : (hostGets v s).regBase = s.regBase := rfl
@[simp] theorem hostGets_hostMem (v : Nat) (s : State) : (hostGets v s).hostMem = s.hostMem := rfl
@[simp] theorem hostGets_hostReads (v : Nat) (s : State) : (hostGets v s).hostReads = s.hostReads ++ [v] := rfl
@[simp] theorem hostGets_dev (v : Nat) (s : State) : (hostGets v s).dev = s.dev := rfl
@[simp] theorem hostGets_inputs (v : Nat) (s : State) : (hostGets v s).inputs = s.inputs := rfl
@[simp] theorem hostGets_env (v : Nat) (s : State) : (hostGets v s).env = s.env := rfl
@[simp] theorem hostGets_draws (v : Nat) (s : State) : (hostGets v s).draws = s.draws := rfl

/-! ## `takeBusTimeout` -/

@[simp] theorem takeBusTimeout_data (i : Option Word) (k : Ack) (cnt : BitVec 32) (s : State) : (takeBusTimeout i k cnt s).data = anyByte s := rfl
@[simp] theorem takeBusTimeout_pn (i : Option Word) (k : Ack) (cnt : BitVec 32) (s : State) : (takeBusTimeout i k cnt s).pn = s.pn := rfl
@[simp] theorem takeBusTimeout_ps (i : Option Word) (k : Ack) (cnt : BitVec 32) (s : State) : (takeBusTimeout i k cnt s).ps = s.ps := rfl
@[simp] theorem takeBusTimeout_buf (i : Option Word) (k : Ack) (cnt : BitVec 32) (s : State) : (takeBusTimeout i k cnt s).buf = s.buf := rfl
@[simp] theorem takeBusTimeout_addr (i : Option Word) (k : Ack) (cnt : BitVec 32) (s : State) : (takeBusTimeout i k cnt s).addr = s.addr := rfl
@[simp] theorem takeBusTimeout_written (i : Option Word) (k : Ack) (cnt : BitVec 32) (s : State) : (takeBusTimeout i k cnt s).written = { s.written with data := true } := rfl
@[simp] theorem takeBusTimeout_op (i : Option Word) (k : Ack) (cnt : BitVec 32) (s : State) : (takeBusTimeout i k cnt s).op = s.op := rfl
@[simp] theorem takeBusTimeout_seq (i : Option Word) (k : Ack) (cnt : BitVec 32) (s : State) : (takeBusTimeout i k cnt s).seq = s.seq := rfl
@[simp] theorem takeBusTimeout_idx (i : Option Word) (k : Ack) (cnt : BitVec 32) (s : State) : (takeBusTimeout i k cnt s).idx = s.idx := rfl
@[simp] theorem takeBusTimeout_done (i : Option Word) (k : Ack) (cnt : BitVec 32) (s : State) : (takeBusTimeout i k cnt s).done = false := rfl
@[simp] theorem takeBusTimeout_ackf (i : Option Word) (k : Ack) (cnt : BitVec 32) (s : State) : (takeBusTimeout i k cnt s).ackf = s.ackf := rfl
@[simp] theorem takeBusTimeout_result (i : Option Word) (k : Ack) (cnt : BitVec 32) (s : State) : (takeBusTimeout i k cnt s).result = .failure := rfl
@[simp] theorem takeBusTimeout_busy (i : Option Word) (k : Ack) (cnt : BitVec 32) (s : State) : (takeBusTimeout i k cnt s).busy = s.busy := rfl
@[simp] theorem takeBusTimeout_inframe (i : Option Word) (k : Ack) (cnt : BitVec 32) (s : State) : (takeBusTimeout i k cnt s).inframe = s.inframe := rfl
@[simp] theorem takeBusTimeout_inited (i : Option Word) (k : Ack) (cnt : BitVec 32) (s : State) : (takeBusTimeout i k cnt s).inited = s.inited := rfl
@[simp] theorem takeBusTimeout_cfgTiming (i : Option Word) (k : Ack) (cnt : BitVec 32) (s : State) : (takeBusTimeout i k cnt s).cfgTiming = s.cfgTiming := rfl
@[simp] theorem takeBusTimeout_retryBudget (i : Option Word) (k : Ack) (cnt : BitVec 32) (s : State) : (takeBusTimeout i k cnt s).retryBudget = s.retryBudget := rfl
@[simp] theorem takeBusTimeout_cnt (i : Option Word) (k : Ack) (cnt : BitVec 32) (s : State) : (takeBusTimeout i k cnt s).cnt = cnt := rfl
@[simp] theorem takeBusTimeout_trace (i : Option Word) (k : Ack) (cnt : BitVec 32) (s : State) : (takeBusTimeout i k cnt s).trace = s.trace ++ [.rf k] := rfl
@[simp] theorem takeBusTimeout_raised (i : Option Word) (k : Ack) (cnt : BitVec 32) (s : State) : (takeBusTimeout i k cnt s).raised = s.raised ++ [.busTimeout i] := rfl
@[simp] theorem takeBusTimeout_late (i : Option Word) (k : Ack) (cnt : BitVec 32) (s : State) : (takeBusTimeout i k cnt s).late = s.late := rfl
@[simp] theorem takeBusTimeout_hostAw (i : Option Word) (k : Ack) (cnt : BitVec 32) (s : State) : (takeBusTimeout i k cnt s).hostAw = s.hostAw := rfl
@[simp] theorem takeBusTimeout_regBase (i : Option Word) (k : Ack) (cnt : BitVec 32) (s : State) : (takeBusTimeout i k cnt s).regBase = s.regBase := rfl
@[simp] theorem takeBusTimeout_hostMem (i : Option Word) (k : Ack) (cnt : BitVec 32) (s : State) : (takeBusTimeout i k cnt s).hostMem = s.hostMem := rfl
@[simp] theorem takeBusTimeout_hostReads (i : Option Word) (k : Ack) (cnt : BitVec 32) (s : State) : (takeBusTimeout i k cnt s).hostReads = s.hostReads := rfl
@[simp] theorem takeBusTimeout_dev (i : Option Word) (k : Ack) (cnt : BitVec 32) (s : State) : (takeBusTimeout i k cnt s).dev = s.dev := rfl
@[simp] theorem takeBusTimeout_inputs (i : Option Word) (k : Ack) (cnt : BitVec 32) (s : State) : (takeBusTimeout i k cnt s).inputs = s.inputs := rfl
@[simp] theorem takeBusTimeout_env (i : Option Word) (k : Ack) (cnt : BitVec 32) (s : State) : (takeBusTimeout i k cnt s).env = s.env := rfl
@[simp] theorem takeBusTimeout_draws (i : Option Word) (k : Ack) (cnt : BitVec 32) (s : State) : (takeBusTimeout i k cnt s).draws = s.draws + 1 := rfl

/-! ## `takeReset` -/

@[simp] theorem takeReset_data (s : State) : (takeReset s).data = 0 := rfl
@[simp] theorem takeReset_pn (s : State) : (takeReset s).pn = 0 := rfl
@[simp] theorem takeReset_ps (s : State) : (takeReset s).ps = 0 := rfl
@[simp] theorem takeReset_buf (s : State) : (takeReset s).buf = 0 := rfl
@[simp] theorem takeReset_addr (s : State) : (takeReset s).addr = 0 := rfl
@[simp] theorem takeReset_written (s : State) : (takeReset s).written = Written.none := rfl
@[simp] theorem takeReset_op (s : State) : (takeReset s).op = none := rfl
@[simp] theorem takeReset_seq (s : State) : (takeReset s).seq = 0 := rfl
@[simp] theorem takeReset_idx (s : State) : (takeReset s).idx = 0 := rfl
@[simp] theorem takeReset_done (s : State) : (takeReset s).done = false := rfl
@[simp] theorem takeReset_ackf (s : State) : (takeReset s).ackf = .term := rfl
@[simp] theorem takeReset_result (s : State) : (takeReset s).result = .success := rfl
@[simp] theorem takeReset_busy (s : State) : (takeReset s).busy = false := rfl
@[simp] theorem takeReset_inframe (s : State) : (takeReset s).inframe = false := rfl
@[simp] theorem takeReset_inited (s : State) : (takeReset s).inited = false := rfl
@[simp] theorem takeReset_cfgTiming (s : State) : (takeReset s).cfgTiming = 0 := rfl
@[simp] theorem takeReset_retryBudget (s : State) : (takeReset s).retryBudget = s.retryBudget := rfl
@[simp] theorem takeReset_cnt (s : State) : (takeReset s).cnt = 0 := rfl
@[simp] theorem takeReset_trace (s : State) : (takeReset s).trace = [] := rfl
@[simp] theorem takeReset_raised (s : State) : (takeReset s).raised = [] := rfl
@[simp] theorem takeReset_late (s : State) : (takeReset s).late = false := rfl
@[simp] theorem takeReset_hostAw (s : State) : (takeReset s).hostAw = s.hostAw := rfl
@[simp] theorem takeReset_regBase (s : State) : (takeReset s).regBase = s.regBase := rfl
@[simp] theorem takeReset_hostMem (s : State) : (takeReset s).hostMem = s.hostMem := rfl
@[simp] theorem takeReset_hostReads (s : State) : (takeReset s).hostReads = s.hostReads := rfl
@[simp] theorem takeReset_dev (s : State) : (takeReset s).dev = s.dev := rfl
@[simp] theorem takeReset_inputs (s : State) : (takeReset s).inputs = s.inputs := rfl
@[simp] theorem takeReset_env (s : State) : (takeReset s).env = s.env := rfl
@[simp] theorem takeReset_draws (s : State) : (takeReset s).draws = s.draws := rfl

/-! ## `markComplete` -/

@[simp] theorem markComplete_data (e : Outbound) (s : State) : (markComplete e s).data = s.data := by
  cases e <;> rfl
@[simp] theorem markComplete_pn (e : Outbound) (s : State) : (markComplete e s).pn = s.pn := by
  cases e <;> rfl
@[simp] theorem markComplete_ps (e : Outbound) (s : State) : (markComplete e s).ps = s.ps := by
  cases e <;> rfl
@[simp] theorem markComplete_buf (e : Outbound) (s : State) : (markComplete e s).buf = s.buf := by
  cases e <;> rfl
@[simp] theorem markComplete_addr (e : Outbound) (s : State) : (markComplete e s).addr = s.addr := by
  cases e <;> rfl
@[simp] theorem markComplete_written (e : Outbound) (s : State) : (markComplete e s).written = s.written := by
  cases e <;> rfl
@[simp] theorem markComplete_op (e : Outbound) (s : State) : (markComplete e s).op = s.op := by
  cases e <;> rfl
@[simp] theorem markComplete_seq (e : Outbound) (s : State) : (markComplete e s).seq = s.seq := by
  cases e <;> rfl
@[simp] theorem markComplete_idx (e : Outbound) (s : State) : (markComplete e s).idx = s.idx := by
  cases e <;> rfl
@[simp] theorem markComplete_done (e : Outbound) (s : State) : (markComplete e s).done = true := by
  cases e <;> rfl
@[simp] theorem markComplete_ackf (e : Outbound) (s : State) : (markComplete e s).ackf = s.ackf := by
  cases e <;> rfl
@[simp] theorem markComplete_result (e : Outbound) (s : State) : (markComplete e s).result = .success := by
  cases e <;> rfl
@[simp] theorem markComplete_busy (e : Outbound) (s : State) : (markComplete e s).busy = s.busy := by
  cases e <;> rfl
@[simp] theorem markComplete_inited (e : Outbound) (s : State) : (markComplete e s).inited = s.inited := by
  cases e <;> rfl
@[simp] theorem markComplete_cfgTiming (e : Outbound) (s : State) : (markComplete e s).cfgTiming = s.cfgTiming := by
  cases e <;> rfl
@[simp] theorem markComplete_retryBudget (e : Outbound) (s : State) : (markComplete e s).retryBudget = s.retryBudget := by
  cases e <;> rfl
@[simp] theorem markComplete_cnt (e : Outbound) (s : State) : (markComplete e s).cnt = s.cnt := by
  cases e <;> rfl
@[simp] theorem markComplete_trace (e : Outbound) (s : State) : (markComplete e s).trace = s.trace := by
  cases e <;> rfl
@[simp] theorem markComplete_raised (e : Outbound) (s : State) : (markComplete e s).raised = s.raised := by
  cases e <;> rfl
@[simp] theorem markComplete_late (e : Outbound) (s : State) : (markComplete e s).late = s.late := by
  cases e <;> rfl
@[simp] theorem markComplete_hostAw (e : Outbound) (s : State) : (markComplete e s).hostAw = s.hostAw := by
  cases e <;> rfl
@[simp] theorem markComplete_regBase (e : Outbound) (s : State) : (markComplete e s).regBase = s.regBase := by
  cases e <;> rfl
@[simp] theorem markComplete_hostMem (e : Outbound) (s : State) : (markComplete e s).hostMem = s.hostMem := by
  cases e <;> rfl
@[simp] theorem markComplete_hostReads (e : Outbound) (s : State) : (markComplete e s).hostReads = s.hostReads := by
  cases e <;> rfl
@[simp] theorem markComplete_dev (e : Outbound) (s : State) : (markComplete e s).dev = s.dev := by
  cases e <;> rfl
@[simp] theorem markComplete_inputs (e : Outbound) (s : State) : (markComplete e s).inputs = s.inputs := by
  cases e <;> rfl
@[simp] theorem markComplete_env (e : Outbound) (s : State) : (markComplete e s).env = s.env := by
  cases e <;> rfl
@[simp] theorem markComplete_draws (e : Outbound) (s : State) : (markComplete e s).draws = s.draws := by
  cases e <;> rfl
@[simp] theorem markComplete_start_inframe (s : State) : (markComplete .start s).inframe = true := rfl
@[simp] theorem markComplete_stop_inframe (s : State) : (markComplete .stop s).inframe = false := rfl
@[simp] theorem markComplete_byte_inframe (b : Byte) (s : State) :
    (markComplete (.byte b) s).inframe = s.inframe := rfl

end Sys2Proof.Machine
end

