-- ==== Sys2Proof/Laws/Handshake.lean ====
section
/-! SUPPORT. What waiting, the handshake of the outbound primitives, READ_BYTE, and the launch of a
command can do, said once each: an equation where the environment's answer is given, and a rule
over every answer. -/

namespace Sys2Proof.Machine

/-! ## The device's part -/

/-- What the device does on an outbound event changes the device only. -/
theorem reach_eq (e : Outbound) (s : State) : reach e s = setDev (reach e s).dev s := by
  cases e <;> simp only [reach, devStart, devStop, devWrite] <;> split <;> rfl

theorem reachIf_eq (r : Bool) (e : Outbound) (s : State) :
    reachIf r e s = setDev (reachIf r e s).dev s := by
  cases r
  · rfl
  · exact reach_eq e s

/-- What the device does on an inbound byte changes the device and the draws only. -/
theorem devRead_eq (s : State) :
    devRead s = { s with dev := (devRead s).dev, draws := (devRead s).draws } := by
  simp only [devRead]
  split <;> split <;> rfl

theorem readIf_eq (r : Bool) (s : State) :
    readIf r s = { s with dev := (readIf r s).dev, draws := (readIf r s).draws } := by
  cases r
  · rfl
  · exact devRead_eq s

/-- The device's part in an inbound byte, from the device alone. -/
theorem devRead_dev (s : State) :
    (devRead s).dev = if s.dev.powered = true ∧ s.dev.ph = .rd then s.dev.advance else s.dev := by
  simp only [devRead]
  split <;> split <;> rfl

theorem devRead_draws (s : State) :
    (devRead s).draws = if devDefines s then s.draws else s.draws + 1 := by
  simp only [devRead]
  split <;> split <;> rfl

theorem inbound_eq (x : Answer) (s : State) :
    inbound x s = { s with dev := (inbound x s).dev, draws := (inbound x s).draws } := by
  cases x
  · exact devRead_eq s
  · rfl

/-! ## Waiting -/

/-- `t` is `s` after a wait: only the schedule, the draws and the values the host has read differ. -/
def Waits (s t : State) : Prop :=
  t = { s with env := t.env, draws := t.draws, hostReads := t.hostReads }

theorem Waits.refl (s : State) : Waits s s := rfl

theorem busyAccess_waits {a : Access} {s t : State} (h : busyAccess a s = .ok t) :
    t = { s with hostReads := t.hostReads } := by
  cases a <;> simp only [busyAccess] at h
  · split at h
    · cases h; rfl
    · cases h
  · cases h; rfl

theorem Waits.trans {s t u : State} (h : Waits s t) (h' : Waits t u) : Waits s u := by
  unfold Waits at *
  rw [h] at h'
  exact h'

theorem busyAccess_Waits {a : Access} {s t : State} (h : busyAccess a s = .ok t) : Waits s t := by
  unfold Waits
  rw [busyAccess_waits h]

/-- The state a wait leaves, if it is not refused. -/
def Waited.state? : Waited → Option State
  | .complete _ _ s => some s
  | .never _ s => some s
  | .reset _ s => some s
  | .refused _ => none

theorem conclude_state? (r : Reply) (s : State) : (conclude r s).state? = some s := by
  cases r <;> rfl

theorem awaitOver_waits {hs : List Happening} {s t : State} (h : (awaitOver hs s).state? = some t) :
    Waits s t := by
  induction hs generalizing s with
  | nil =>
    rw [awaitOver, conclude_state?] at h
    cases h
    rfl
  | cons x hs ih =>
    cases x with
    | reply r =>
      rw [awaitOver, conclude_state?] at h
      cases h
      rfl
    | access a =>
      rw [awaitOver] at h
      cases hb : busyAccess a s with
      | error r => rw [hb] at h; cases h
      | ok u => rw [hb] at h; exact (busyAccess_Waits hb).trans (ih h)
    | between x =>
      cases x with
      | access a =>
        rw [awaitOver] at h
        cases hb : busyAccess a s with
        | error r => rw [hb] at h; cases h
        | ok u => rw [hb] at h; exact (busyAccess_Waits hb).trans (ih h)
      | late => exact ih h
      | go => exact ih h
      | reset => cases h; rfl

theorem await_waits {s t : State} (h : (await s).state? = some t) : Waits s t := awaitOver_waits h

/-- A wait whose answer is scripted next. -/
theorem await_reply {s : State} {r : Reply} {rest : List Happening} (h : s.env = .reply r :: rest) :
    await s = conclude r { s with env := rest } := by
  rw [await, h, awaitOver]

/-! ## Runs -/

/-- How a run can end, with what holds of the state at each end. -/
def Run.Ends (completed failed hung reset : State → Prop) : Run → Prop
  | .ended s => completed s
  | .failed s => failed s
  | .hung s => hung s
  | .reset s => reset s
  | .refused _ => True

theorem Run.Ends.mono {C F H R C' F' H' R' : State → Prop} {x : Run} (h : x.Ends C F H R)
    (hC : ∀ s, C s → C' s) (hF : ∀ s, F s → F' s) (hH : ∀ s, H s → H' s) (hR : ∀ s, R s → R' s) :
    x.Ends C' F' H' R' := by
  cases x <;> simp only [Run.Ends] at h ⊢
  · exact hC _ h
  · exact hF _ h
  · exact hH _ h
  · exact hR _ h

theorem Run.Ends.andThen {C C' F H R : State → Prop} {x : Run} {f : State → Run}
    (h : x.Ends C F H R) (hf : ∀ s, C s → (f s).Ends C' F H R) : (x.andThen f).Ends C' F H R := by
  cases x <;> simp only [Run.Ends, Run.andThen] at h ⊢
  · exact hf _ h
  · exact h
  · exact h
  · exact h

/-- A run's outcome, when it is a next state. -/
theorem Run.Ends.outcome {C F H R : State → Prop} {x : Run} {t : State} (h : x.Ends C F H R)
    (ht : x.outcome = .next t) :
    (∃ s, C s ∧ t = finish s) ∨ (∃ s, F s ∧ t = finish s) ∨ H t ∨ R t := by
  cases x <;> simp only [Run.Ends, Run.outcome, Host.Outcome.next.injEq, reduceCtorEq] at h ht
  · exact .inl ⟨_, h, ht.symm⟩
  · exact .inr (.inl ⟨_, h, ht.symm⟩)
  · exact .inr (.inr (.inl (ht ▸ h)))
  · exact .inr (.inr (.inr (ht ▸ h)))

theorem Run.outcome_ne_fault (x : Run) (r : Fault) : x.outcome ≠ .fault r := by
  cases x <;> simp [Run.outcome]

@[simp] theorem Run.ended_andThen (s : State) (f : State → Run) : (Run.ended s).andThen f = f s := rfl
@[simp] theorem Run.failed_andThen (s : State) (f : State → Run) :
    (Run.failed s).andThen f = .failed s := rfl
@[simp] theorem Run.hung_andThen (s : State) (f : State → Run) :
    (Run.hung s).andThen f = .hung s := rfl
@[simp] theorem Run.reset_andThen (s : State) (f : State → Run) :
    (Run.reset s).andThen f = .reset s := rfl

/-! ## Between two primitives of a page command -/

/-- `t` is `s` after interludes: only the schedule, the values the host has read, and a completion of an
earlier transfer differ. -/
def Gaps (s t : State) : Prop :=
  t = { s with env := t.env, hostReads := t.hostReads, done := t.done, late := t.late }

theorem Gaps.refl (s : State) : Gaps s s := rfl

theorem Gaps.trans {s t u : State} (h : Gaps s t) (h' : Gaps t u) : Gaps s u := by
  unfold Gaps at *
  rw [h] at h'
  exact h'

theorem completeLate_gaps (s : State) : Gaps s (completeLate s) := by
  unfold completeLate
  split <;> rfl

/-- Everything the interludes can do: leave a state that `Gaps` allows, or be reset there. -/
theorem attendOver_ends {C R : State → Prop} {hs : List Happening} {s : State}
    (hC : ∀ t, Gaps s t → C t) (hR : ∀ t, Gaps s t → R (takeReset t)) :
    (attendOver hs s).Ends C (fun _ => False) (fun _ => False) R := by
  induction hs generalizing s with
  | nil => exact hC _ rfl
  | cons x hs ih =>
    cases x with
    | access a => exact hC _ rfl
    | reply r => exact hC _ rfl
    | between x =>
      cases x with
      | access a =>
        rw [attendOver]
        split
        · rename_i t hb
          have hg : Gaps s t := by unfold Gaps; rw [busyAccess_waits hb]
          exact ih (fun u hu => hC u (hg.trans hu)) (fun u hu => hR u (hg.trans hu))
        · trivial
      | late =>
        exact ih (fun u hu => hC u ((completeLate_gaps s).trans hu))
          (fun u hu => hR u ((completeLate_gaps s).trans hu))
      | reset => exact hR _ rfl
      | go => exact hC _ rfl

theorem attend_ends {C R : State → Prop} {s : State}
    (hC : ∀ t, Gaps s t → C t) (hR : ∀ t, Gaps s t → R (takeReset t)) :
    (attend s).Ends C (fun _ => False) (fun _ => False) R := attendOver_ends hC hR

/-- Everything a primitive of a page command can do, with the interludes before it. -/
theorem paced_ends {C F H R : State → Prop} {p : State → Run} {s : State}
    (hp : ∀ t, Gaps s t → (p t).Ends C F H R) (hR : ∀ t, Gaps s t → R (takeReset t)) :
    (paced p s).Ends C F H R :=
  ((attend_ends (C := Gaps s) (fun _ h => h) hR).mono (fun _ => id) (fun _ => False.elim)
    (fun _ => False.elim) (fun _ => id)).andThen hp

/-- There is no interlude where a handshake's answer comes next. -/
theorem attend_reply {s : State} {r : Reply} {rest : List Happening} (h : s.env = .reply r :: rest) :
    attend s = .ended s := by
  rw [attend, h, attendOver, ← h]

theorem paced_reply {p : State → Run} {s : State} {r : Reply} {rest : List Happening}
    (h : s.env = .reply r :: rest) : paced p s = p s := by
  rw [paced, attend_reply h, Run.ended_andThen]

/-! ## START, STOP, WRITE_BYTE -/

/-- Everything an outbound primitive can do. -/
theorem transmit_ends {e : Outbound} {s : State} {C H R : State → Prop}
    (hC : ∀ x t, Waits (clearDone s) t → C (markComplete e (deliver e x t)))
    (hH : ∀ r t, Waits (clearDone s) t → H (emit (hungEventOf e) (reachIf r e t)))
    (hR : ∀ r t, Waits (clearDone s) t → R (takeReset (reachIf r e t))) :
    (transmit e s).Ends C (fun _ => False) H R := by
  unfold transmit
  split
  · exact hC _ _ (await_waits (by rw [‹await _ = _›]; rfl))
  · exact hH _ _ (await_waits (by rw [‹await _ = _›]; rfl))
  · exact hR _ _ (await_waits (by rw [‹await _ = _›]; rfl))
  · trivial

/-- An outbound primitive whose handshake completes next. -/
theorem transmit_complete {e : Outbound} {s : State} {d : Nat} {x : Answer} {rest : List Happening}
    (h : s.env = .reply (.complete d x) :: rest) :
    transmit e s = .ended (markComplete e (deliver e x { clearDone s with env := rest })) := by
  rw [transmit, await_reply (s := clearDone s) h]
  rfl

/-- An outbound primitive whose handshake never completes. -/
theorem transmit_never {e : Outbound} {s : State} {r : Bool} {rest : List Happening}
    (h : s.env = .reply (.never r) :: rest) :
    transmit e s =
      .hung (emit (hungEventOf e) (reachIf r e { clearDone s with env := rest })) := by
  rw [transmit, await_reply (s := clearDone s) h]
  rfl

/-- An outbound primitive during which the reset input is asserted. -/
theorem transmit_reset {e : Outbound} {s : State} {r : Bool} {rest : List Happening}
    (h : s.env = .reply (.reset r) :: rest) :
    transmit e s = .reset (takeReset (reachIf r e { clearDone s with env := rest })) := by
  rw [transmit, await_reply (s := clearDone s) h]
  rfl

/-! ## READ_BYTE -/

theorem poll_some (budget : BitVec 32) (d : Nat) :
    poll budget (some d) = if d < budget.toNat then (d, true) else (budget.toNat, false) := rfl

theorem poll_none (budget : BitVec 32) : poll budget none = (budget.toNat, false) := rfl

/-- The state READ_BYTE waits in. -/
def requested (k : AckFlag) (s : State) : State := clearDone { s with ackf := k }

/-- Everything READ_BYTE can do: deliver a byte within the budget, time out, or be reset. -/
theorem receive_ends {k : AckFlag} {i : Option Word} {s : State} {C F R : State → Prop}
    (hC : ∀ x d t, Waits (requested k s) t → d < t.retryBudget.toNat → C (acceptByte k x d t))
    (hF : ∀ t l d n, Waits (requested k s) t → d = t.dev ∨ d = (devRead t).dev →
      F (takeBusTimeout i (ackOf k) t.retryBudget { t with late := l, dev := d, draws := n }))
    (hR : ∀ r t, Waits (requested k s) t → R (takeReset (readIf r t))) :
    (receive k i s).Ends C F (fun _ => False) R := by
  unfold receive
  split
  · rename_i d x t h
    have hw : Waits (requested k s) t := await_waits (by rw [requested, h]; rfl)
    rw [poll_some]
    by_cases hd : d < t.retryBudget.toNat
    · simp only [hd, if_true]
      exact hC _ _ _ hw hd
    · simp only [hd, if_false, Bool.false_eq_true, BitVec.ofNat_toNat, BitVec.setWidth_eq]
      rw [inbound_eq]
      refine hF _ _ _ _ hw ?_
      cases x
      · exact .inr rfl
      · exact .inl rfl
  · rename_i r t h
    have hw : Waits (requested k s) t := await_waits (by rw [requested, h]; rfl)
    rw [poll_none]
    simp only [BitVec.ofNat_toNat, BitVec.setWidth_eq]
    rw [readIf_eq]
    refine hF _ t.late _ _ hw ?_
    cases r
    · exact .inl rfl
    · exact .inr rfl
  · exact hR _ _ (await_waits (by rw [requested, ‹await _ = _›]; rfl))
  · trivial

/-- READ_BYTE whose transfer completes next, within the budget. -/
theorem receive_complete {k : AckFlag} {i : Option Word} {s : State} {d : Nat} {x : Answer}
    {rest : List Happening} (h : s.env = .reply (.complete d x) :: rest)
    (hd : d < s.retryBudget.toNat) :
    receive k i s = .ended (acceptByte k x d { requested k s with env := rest }) := by
  rw [receive, await_reply (s := clearDone { s with ackf := k }) h]
  have : poll s.retryBudget (some d) = (d, true) := by rw [poll_some, if_pos hd]
  simp [conclude, this, requested]

/-- READ_BYTE whose transfer does not complete within the budget. -/
theorem receive_timeout {k : AckFlag} {i : Option Word} {s : State} {r : Reply}
    {rest : List Happening} (h : s.env = .reply r :: rest)
    (hr : ∀ d x, r = .complete d x → s.retryBudget.toNat ≤ d) (hr' : ∀ b, r ≠ .reset b) :
    ∃ l d n, (d = s.dev ∨ d = (devRead s).dev) ∧
      receive k i s = .failed (takeBusTimeout i (ackOf k) s.retryBudget
        { requested k s with env := rest, late := l, dev := d, draws := n }) := by
  rw [receive, await_reply (s := clearDone { s with ackf := k }) h]
  cases r with
  | complete d x =>
    have : poll s.retryBudget (some d) = (s.retryBudget.toNat, false) := by
      rw [poll_some, if_neg (by have := hr d x rfl; omega)]
    cases x with
    | device =>
      refine ⟨true, _, (devRead s).draws, .inr rfl, ?_⟩
      simp only [conclude, clearDone_retryBudget, this, Bool.false_eq_true, if_false,
        BitVec.ofNat_toNat, BitVec.setWidth_eq]
      rw [inbound_eq]
      simp [inbound, devRead_dev, devRead_draws, devDefines, requested]
    | other b a =>
      refine ⟨true, _, s.draws, .inl rfl, ?_⟩
      simp [conclude, this, inbound, requested]
  | never b =>
    cases b with
    | false =>
      refine ⟨false, _, s.draws, .inl rfl, ?_⟩
      simp [conclude, poll_none, readIf, requested, clearDone]
    | true =>
      refine ⟨false, _, (devRead s).draws, .inr rfl, ?_⟩
      simp only [conclude, poll_none, clearDone_retryBudget, BitVec.ofNat_toNat,
        BitVec.setWidth_eq]
      rw [readIf_eq]
      simp [readIf, devRead_dev, devRead_draws, devDefines, requested, clearDone]
  | reset b => exact absurd rfl (hr' b)

/-- READ_BYTE during which the reset input is asserted. -/
theorem receive_reset {k : AckFlag} {i : Option Word} {s : State} {r : Bool} {rest : List Happening}
    (h : s.env = .reply (.reset r) :: rest) :
    receive k i s = .reset (takeReset (readIf r { requested k s with env := rest })) := by
  rw [receive, await_reply (s := clearDone { s with ackf := k }) h]
  rfl

/-! ## Issuing a command -/

theorem issue_busy {i : Instr} {m : Option Refusal} {f : State → Run} {s : State}
    (h : s.busy = true) : issue i m f s = .next s := by simp [issue, h]

theorem issue_missing {i : Instr} {m : Option Refusal} {f : State → Run} {s : State} {r : Refusal}
    (h : s.busy = false) (hm : m = some r) : issue i m f s = .refused r := by simp [issue, h, hm]

theorem issue_ready {i : Instr} {m : Option Refusal} {f : State → Run} {s : State}
    (h : s.busy = false) (hm : m = none) : issue i m f s = (f (launch i s)).outcome := by
  simp [issue, h, hm]

/-- Everything issuing a command while idle can do. -/
theorem issue_next {i : Instr} {m : Option Refusal} {f : State → Run} {s t : State}
    (h : s.busy = false) (ht : issue i m f s = .next t) :
    m = none ∧ (f (launch i s)).outcome = .next t := by
  cases m with
  | some r => simp [issue, h] at ht
  | none => exact ⟨rfl, by rwa [issue_ready h rfl] at ht⟩

theorem issue_ne_fault (i : Instr) (m : Option Refusal) (f : State → Run) (s : State) (r : Fault) :
    issue i m f s ≠ .fault r := by
  unfold issue
  split
  · simp
  · split
    · simp
    · exact Run.outcome_ne_fault _ _

end Sys2Proof.Machine
end

