-- ==== Sys2Proof/Laws/Memory.lean ====
section
/-! SUPPORT. Laws of the canonical byte memory: a write keeps the form, and a read after a write gives
the byte written there and leaves every other address alone. -/

namespace Sys2Proof.Machine

variable {size : Nat}

theorem Memory.wfFrom_cons (low k : Nat) (v : Byte) (m : Memory) :
    Memory.wfFrom size low ((k, v) :: m) = true ↔
      low ≤ k ∧ k < size ∧ v ≠ Memory.blank ∧ Memory.wfFrom size (k + 1) m = true := by
  simp [Memory.wfFrom, and_assoc]

theorem Memory.wfFrom_mono {low low' : Nat} (h : low' ≤ low) {m : Memory}
    (hm : Memory.wfFrom size low m = true) : Memory.wfFrom size low' m = true := by
  cases m with
  | nil => rfl
  | cons c m =>
    rw [Memory.wfFrom_cons] at hm ⊢
    exact ⟨h.trans hm.1, hm.2⟩

/-- An address below every entry reads as blank. -/
theorem Memory.read_of_lt {m : Memory} {low : Nat} {a : Nat} (hm : Memory.wfFrom size low m = true)
    (ha : a < low) : Memory.read m a = Memory.blank := by
  induction m generalizing low with
  | nil => rfl
  | cons c m ih =>
    obtain ⟨k, v⟩ := c
    rw [Memory.wfFrom_cons] at hm
    rw [Memory.read, if_neg (by omega), ih hm.2.2.2 (by omega)]

theorem Memory.wfFrom_write {m : Memory} {low : Nat} {a : Nat} (b : Byte)
    (hm : Memory.wfFrom size low m = true) (ha : low ≤ a) (hb : a < size) :
    Memory.wfFrom size low (Memory.write m a b) = true := by
  induction m generalizing low with
  | nil =>
    by_cases h : b = Memory.blank
    · simp [Memory.write, h, Memory.wfFrom]
    · simp only [Memory.write, if_neg h, Memory.wfFrom_cons]
      exact ⟨ha, hb, h, rfl⟩
  | cons c m ih =>
    obtain ⟨k, v⟩ := c
    have hm' := (Memory.wfFrom_cons ..).1 hm
    obtain ⟨h1, h2, h3, h4⟩ := hm'
    unfold Memory.write
    split
    · split
      · exact hm
      · simp only [Memory.wfFrom_cons]
        exact ⟨ha, hb, ‹_›, by omega, h2, h3, h4⟩
    · split
      · split
        · exact Memory.wfFrom_mono (by omega) h4
        · simp only [Memory.wfFrom_cons]
          exact ⟨h1, h2, ‹_›, h4⟩
      · rw [Memory.wfFrom_cons]
        exact ⟨h1, h2, h3, ih h4 (by omega)⟩

/-- Every write keeps a memory canonical. -/
theorem Memory.wf_write {m : Memory} {a : Nat} (b : Byte) (hm : Memory.wf size m = true) (ha : a < size) :
    Memory.wf size (Memory.write m a b) = true :=
  Memory.wfFrom_write b hm (Nat.zero_le _) ha

theorem Memory.read_write_from {m : Memory} {low : Nat} (a c : Nat) (b : Byte)
    (hm : Memory.wfFrom size low m = true) :
    Memory.read (Memory.write m a b) c = if c = a then b else Memory.read m c := by
  induction m generalizing low with
  | nil =>
    by_cases h : b = Memory.blank <;> by_cases hc : c = a <;>
      simp [Memory.write, Memory.read, h, hc]
    exact fun h' => absurd h'.symm hc
  | cons x m ih =>
    obtain ⟨k, v⟩ := x
    obtain ⟨h1, h2, h3, h4⟩ := (Memory.wfFrom_cons ..).1 hm
    unfold Memory.write
    split
    · split
      · rename_i hlt hb
        split
        · subst ‹c = a›
          rw [Memory.read, if_neg (by omega), Memory.read_of_lt h4 (by omega), hb]
        · rfl
      · rename_i hlt hb
        simp only [Memory.read]
        by_cases hc : c = a
        · simp [hc]
        · rw [if_neg (fun h => hc h.symm), if_neg hc]
    · split
      · split
        · rename_i hlt heq hb
          by_cases hc : c = a
          · rw [if_pos hc, Memory.read_of_lt h4 (by rw [hc]; omega), hb]
          · rw [if_neg hc]
            conv => rhs; rw [Memory.read]
            rw [if_neg (fun h => hc (by omega))]
        · rename_i hlt heq hb
          simp only [Memory.read]
          by_cases hc : c = a
          · simp [hc, heq]
          · rw [if_neg (fun h => hc (by omega)), if_neg hc, if_neg (fun h => hc (by omega))]
      · rename_i hlt heq
        simp only [Memory.read]
        split
        · rename_i hk
          rw [if_neg (fun h => heq (h.symm.trans hk.symm))]
        · exact ih h4

/-- A read after a write, for a canonical memory. -/
theorem Memory.read_write {m : Memory} (a c : Nat) (b : Byte) (hm : Memory.wf size m = true) :
    Memory.read (Memory.write m a b) c = if c = a then b else Memory.read m c :=
  Memory.read_write_from a c b hm

/-! ## The host buffer space -/

theorem hostSize_pos (s : State) : 0 < hostSize s := Nat.two_pow_pos _

theorem hostAddress_lt (a : Nat) (s : State) : hostAddress a s < hostSize s :=
  Nat.mod_lt _ (hostSize_pos s)

/-- A store of the host or of READ_PAGE keeps the host's memory canonical. -/
theorem memWrite_wf {s : State} (a : Nat) (b : Byte) (hm : Memory.wf (hostSize s) s.hostMem = true) :
    Memory.wf (hostSize s) (memWrite a b s).hostMem = true :=
  Memory.wf_write b hm (hostAddress_lt a s)

/-- What a store changes: the byte at its address modulo `2^HOST_AW`. -/
theorem memWrite_read {s : State} (a c : Nat) (b : Byte)
    (hm : Memory.wf (hostSize s) s.hostMem = true) :
    Memory.read (memWrite a b s).hostMem c = if c = a % hostSize s then b else Memory.read s.hostMem c :=
  Memory.read_write _ _ _ hm

end Sys2Proof.Machine
end

