-- ==== Sys2Proof/Laws/Device.lean ====
section
/-! SUPPORT. What the device's part in an event depends on, and what it leaves alone: the device sees
nothing of the block's registers. -/

namespace Sys2Proof.Machine

/-- The device after an outbound event, from the device before it alone. -/
def Device.see (e : Outbound) (d : Device) : Device :=
  if d.powered then
    match e with
    | .start => { d with ph := .sla }
    | .stop => { d with ph := .idle }
    | .byte b => (d.take b).1
  else d

theorem reach_dev (e : Outbound) (s : State) : (reach e s).dev = s.dev.see e := by
  cases e <;> simp only [reach, devStart, devStop, devWrite, Device.see] <;> split <;> rfl

theorem reachIf_dev (r : Bool) (e : Outbound) (s : State) :
    (reachIf r e s).dev = if r then s.dev.see e else s.dev := by
  cases r
  · rfl
  · exact reach_dev e s

/-- Neither an outbound nor an inbound event changes what the device is made of. -/
theorem Device.take_keeps (b : Byte) (d : Device) :
    (d.take b).1.space = d.space ∧ (d.take b).1.window = d.window ∧
      (d.take b).1.powered = d.powered := by
  unfold Device.take Device.store Device.advance
  split <;> (try split) <;> (try split) <;> exact ⟨rfl, rfl, rfl⟩

theorem Device.see_keeps (e : Outbound) (d : Device) :
    (d.see e).space = d.space ∧ (d.see e).window = d.window ∧ (d.see e).powered = d.powered := by
  unfold Device.see
  split
  · cases e
    · exact ⟨rfl, rfl, rfl⟩
    · exact ⟨rfl, rfl, rfl⟩
    · exact Device.take_keeps _ _
  · exact ⟨rfl, rfl, rfl⟩

/-! ## The device's contents -/

theorem rising_mono {low low' : Nat} (h : low' ≤ low) {l : List Nat} (hl : rising low l = true) :
    rising low' l = true := by
  cases l with
  | nil => rfl
  | cons k l =>
    simp only [rising, Bool.and_eq_true, decide_eq_true_eq] at hl ⊢
    exact ⟨⟨h.trans hl.1.1, hl.1.2⟩, hl.2⟩

theorem settle_rising {low a : Nat} {l : List Nat} (ha : low ≤ a) (hb : a < 65536)
    (hl : rising low l = true) : rising low (settle a l) = true := by
  induction l generalizing low with
  | nil => simp [settle, rising, ha, hb]
  | cons k l ih =>
    have hl' := hl
    simp only [rising, Bool.and_eq_true, decide_eq_true_eq] at hl'
    unfold settle
    split
    · simp only [rising, Bool.and_eq_true, decide_eq_true_eq]
      exact ⟨⟨ha, hb⟩, ⟨by omega, hl'.1.2⟩, hl'.2⟩
    · split
      · exact hl
      · simp only [rising, Bool.and_eq_true, decide_eq_true_eq]
        exact ⟨hl'.1, ih (by omega) hl'.2⟩

/-- What is settled after one more address is. -/
theorem settle_contains (a c : Nat) (l : List Nat) :
    (settle a l).contains c = (decide (c = a) || l.contains c) := by
  induction l with
  | nil => simp [settle]
  | cons k l ih =>
    unfold settle
    split
    · simp
    · split
      · subst ‹a = k›
        simp
      · rw [List.contains_cons, ih, List.contains_cons]
        cases c == k <;> simp

/-- The parts of the canonical form. -/
theorem Device.wf_iff (d : Device) : d.wf = true ↔
    Memory.wf 65536 d.mem = true ∧ rising 0 d.settled = true ∧ (d.strays = 0 → d.settled = []) := by
  simp only [Device.wf, Bool.and_eq_true, Bool.or_eq_true, decide_eq_true_eq, and_assoc]
  refine and_congr_right fun _ => and_congr_right fun _ => ?_
  exact ⟨fun h h0 => h.resolve_left (fun h' => h' h0), fun h => (Decidable.em _).elim (fun h0 => .inr (h h0)) .inl⟩

/-- A byte stored in the range is what the device holds there, and it holds no other byte anew. -/
theorem Device.put_content (b : Byte) (d : Device) (c : Word) (h : d.wf = true) :
    (d.put b).content c = if c = d.ptr then b else d.content c := by
  have hm := ((Device.wf_iff d).1 h).1
  have hc : c.toNat = d.ptr.toNat ↔ c = d.ptr := BitVec.toNat_inj
  unfold Device.content Device.put
  by_cases h0 : d.strays = 0
  · simp only [h0, decide_true, Bool.true_or, if_true]
    rw [Memory.read_write _ _ _ hm]
    simp only [hc]
  · simp only [h0, decide_false, Bool.false_or, if_false, settle_contains, Bool.or_eq_true,
      decide_eq_true_eq, hc]
    rw [Memory.read_write _ _ _ hm]
    by_cases h1 : c = d.ptr
    · simp [h1]
    · simp [h1, hc]

theorem Device.put_wf (b : Byte) (d : Device) (h : d.wf = true) : (d.put b).wf = true := by
  obtain ⟨h1, h2, h3⟩ := (Device.wf_iff d).1 h
  refine (Device.wf_iff _).2 ⟨Memory.wf_write b h1 d.ptr.isLt, ?_, fun h0 => ?_⟩
  · simp only [Device.put]
    split
    · exact h2
    · exact settle_rising (Nat.zero_le _) d.ptr.isLt h2
  · have h0' : d.strays = 0 := h0
    simp [Device.put, h0', h3]

theorem Device.stray_wf (d : Device) : d.stray.wf = true :=
  (Device.wf_iff _).2 ⟨rfl, rfl, fun h => by simp [Device.stray] at h⟩

@[simp] theorem Device.advance_content (d : Device) (c : Word) : d.advance.content c = d.content c := rfl

theorem Device.advance_wf (d : Device) : d.advance.wf = d.wf := rfl

theorem Device.store_wf (b : Byte) (d : Device) (h : d.wf = true) : (d.store b).wf = true := by
  unfold Device.store
  split
  · exact Device.put_wf b d h
  · exact d.stray_wf

theorem Device.take_wf (b : Byte) (d : Device) (h : d.wf = true) : (d.take b).1.wf = true := by
  unfold Device.take
  split
  · split
    · split <;> exact h
    · exact h
  · exact h
  · exact h
  · exact Device.store_wf b d h
  all_goals exact h

/-- The device's contents stay canonical on every outbound event. -/
theorem Device.see_wf (e : Outbound) (d : Device) (h : d.wf = true) : (d.see e).wf = true := by
  unfold Device.see
  split
  · cases e
    · exact h
    · exact h
    · exact Device.take_wf _ _ h
  · exact h

/-- An inbound byte changes the device's current address only. -/
theorem devRead_keeps (s : State) :
    (devRead s).dev.mem = s.dev.mem ∧ (devRead s).dev.space = s.dev.space ∧
      (devRead s).dev.window = s.dev.window ∧ (devRead s).dev.powered = s.dev.powered := by
  rw [devRead_dev]
  split <;> exact ⟨rfl, rfl, rfl, rfl⟩

/-- An inbound byte changes no contents. -/
theorem devRead_contents (s : State) :
    (devRead s).dev.wf = s.dev.wf ∧ ∀ a, (devRead s).dev.content a = s.dev.content a := by
  rw [devRead_dev]
  split <;> exact ⟨rfl, fun _ => rfl⟩

end Sys2Proof.Machine
end

