-- ==== Sys2Proof/Laws/Frames.lean ====
section
/-! SUPPORT. The frame of every operation that hands an event to the device or waits: what it leaves
alone, one lemma per field, so that no proof unfolds the device. -/

namespace Sys2Proof.Machine

/-! ## `reachIf` -/

@[simp] theorem reachIf_data (r : Bool) (e : Outbound) (s : State) : (reachIf r e s).data = s.data := by
  rw [reachIf_eq]; rfl
@[simp] theorem reachIf_pn (r : Bool) (e : Outbound) (s : State) : (reachIf r e s).pn = s.pn := by
  rw [reachIf_eq]; rfl
@[simp] theorem reachIf_ps (r : Bool) (e : Outbound) (s : State) : (reachIf r e s).ps = s.ps := by
  rw [reachIf_eq]; rfl
@[simp] theorem reachIf_buf (r : Bool) (e : Outbound) (s : State) : (reachIf r e s).buf = s.buf := by
  rw [reachIf_eq]; rfl
@[simp] theorem reachIf_addr (r : Bool) (e : Outbound) (s : State) : (reachIf r e s).addr = s.addr := by
  rw [reachIf_eq]; rfl
@[simp] theorem reachIf_written (r : Bool) (e : Outbound) (s : State) : (reachIf r e s).written = s.written := by
  rw [reachIf_eq]; rfl
@[simp] theorem reachIf_op (r : Bool) (e : Outbound) (s : State) : (reachIf r e s).op = s.op := by
  rw [reachIf_eq]; rfl
@[simp] theorem reachIf_seq (r : Bool) (e : Outbound) (s : State) : (reachIf r e s).seq = s.seq := by
  rw [reachIf_eq]; rfl
@[simp] theorem reachIf_idx (r : Bool) (e : Outbound) (s : State) : (reachIf r e s).idx = s.idx := by
  rw [reachIf_eq]; rfl
@[simp] theorem reachIf_done (r : Bool) (e : Outbound) (s : State) : (reachIf r e s).done = s.done := by
  rw [reachIf_eq]; rfl
@[simp] theorem reachIf_ackf (r : Bool) (e : Outbound) (s : State) : (reachIf r e s).ackf = s.ackf := by
  rw [reachIf_eq]; rfl
@[simp] theorem reachIf_result (r : Bool) (e : Outbound) (s : State) : (reachIf r e s).result = s.result := by
  rw [reachIf_eq]; rfl
@[simp] theorem reachIf_busy (r : Bool) (e : Outbound) (s : State) : (reachIf r e s).busy = s.busy := by
  rw [reachIf_eq]; rfl
@[simp] theorem reachIf_inframe (r : Bool) (e : Outbound) (s : State) : (reachIf r e s).inframe = s.inframe := by
  rw [reachIf_eq]; rfl
@[simp] theorem reachIf_inited (r : Bool) (e : Outbound) (s : State) : (reachIf r e s).inited = s.inited := by
  rw [reachIf_eq]; rfl
@[simp] theorem reachIf_cfgTiming (r : Bool) (e : Outbound) (s : State) : (reachIf r e s).cfgTiming = s.cfgTiming := by
  rw [reachIf_eq]; rfl
@[simp] theorem reachIf_retryBudget (r : Bool) (e : Outbound) (s : State) : (reachIf r e s).retryBudget = s.retryBudget := by
  rw [reachIf_eq]; rfl
@[simp] theorem reachIf_cnt (r : Bool) (e : Outbound) (s : State) : (reachIf r e s).cnt = s.cnt := by
  rw [reachIf_eq]; rfl
@[simp] theorem reachIf_trace (r : Bool) (e : Outbound) (s : State) : (reachIf r e s).trace = s.trace := by
  rw [reachIf_eq]; rfl
@[simp] theorem reachIf_raised (r : Bool) (e : Outbound) (s : State) : (reachIf r e s).raised = s.raised := by
  rw [reachIf_eq]; rfl
@[simp] theorem reachIf_late (r : Bool) (e : Outbound) (s : State) : (reachIf r e s).late = s.late := by
  rw [reachIf_eq]; rfl
@[simp] theorem reachIf_hostAw (r : Bool) (e : Outbound) (s : State) : (reachIf r e s).hostAw = s.hostAw := by
  rw [reachIf_eq]; rfl
@[simp] theorem reachIf_regBase (r : Bool) (e : Outbound) (s : State) : (reachIf r e s).regBase = s.regBase := by
  rw [reachIf_eq]; rfl
@[simp] theorem reachIf_hostMem (r : Bool) (e : Outbound) (s : State) : (reachIf r e s).hostMem = s.hostMem := by
  rw [reachIf_eq]; rfl
@[simp] theorem reachIf_hostReads (r : Bool) (e : Outbound) (s : State) : (reachIf r e s).hostReads = s.hostReads := by
  rw [reachIf_eq]; rfl
@[simp] theorem reachIf_inputs (r : Bool) (e : Outbound) (s : State) : (reachIf r e s).inputs = s.inputs := by
  rw [reachIf_eq]; rfl
@[simp] theorem reachIf_env (r : Bool) (e : Outbound) (s : State) : (reachIf r e s).env = s.env := by
  rw [reachIf_eq]; rfl
@[simp] theorem reachIf_draws (r : Bool) (e : Outbound) (s : State) : (reachIf r e s).draws = s.draws := by
  rw [reachIf_eq]; rfl

/-! ## `inbound` -/

@[simp] theorem inbound_data (x : Answer) (s : State) : (inbound x s).data = s.data := by
  rw [inbound_eq]
@[simp] theorem inbound_pn (x : Answer) (s : State) : (inbound x s).pn = s.pn := by
  rw [inbound_eq]
@[simp] theorem inbound_ps (x : Answer) (s : State) : (inbound x s).ps = s.ps := by
  rw [inbound_eq]
@[simp] theorem inbound_buf (x : Answer) (s : State) : (inbound x s).buf = s.buf := by
  rw [inbound_eq]
@[simp] theorem inbound_addr (x : Answer) (s : State) : (inbound x s).addr = s.addr := by
  rw [inbound_eq]
@[simp] theorem inbound_written (x : Answer) (s : State) : (inbound x s).written = s.written := by
  rw [inbound_eq]
@[simp] theorem inbound_op (x : Answer) (s : State) : (inbound x s).op = s.op := by
  rw [inbound_eq]
@[simp] theorem inbound_seq (x : Answer) (s : State) : (inbound x s).seq = s.seq := by
  rw [inbound_eq]
@[simp] theorem inbound_idx (x : Answer) (s : State) : (inbound x s).idx = s.idx := by
  rw [inbound_eq]
@[simp] theorem inbound_done (x : Answer) (s : State) : (inbound x s).done = s.done := by
  rw [inbound_eq]
@[simp] theorem inbound_ackf (x : Answer) (s : State) : (inbound x s).ackf = s.ackf := by
  rw [inbound_eq]
@[simp] theorem inbound_result (x : Answer) (s : State) : (inbound x s).result = s.result := by
  rw [inbound_eq]
@[simp] theorem inbound_busy (x : Answer) (s : State) : (inbound x s).busy = s.busy := by
  rw [inbound_eq]
@[simp] theorem inbound_inframe (x : Answer) (s : State) : (inbound x s).inframe = s.inframe := by
  rw [inbound_eq]
@[simp] theorem inbound_inited (x : Answer) (s : State) : (inbound x s).inited = s.inited := by
  rw [inbound_eq]
@[simp] theorem inbound_cfgTiming (x : Answer) (s : State) : (inbound x s).cfgTiming = s.cfgTiming := by
  rw [inbound_eq]
@[simp] theorem inbound_retryBudget (x : Answer) (s : State) : (inbound x s).retryBudget = s.retryBudget := by
  rw [inbound_eq]
@[simp] theorem inbound_cnt (x : Answer) (s : State) : (inbound x s).cnt = s.cnt := by
  rw [inbound_eq]
@[simp] theorem inbound_trace (x : Answer) (s : State) : (inbound x s).trace = s.trace := by
  rw [inbound_eq]
@[simp] theorem inbound_raised (x : Answer) (s : State) : (inbound x s).raised = s.raised := by
  rw [inbound_eq]
@[simp] theorem inbound_late (x : Answer) (s : State) : (inbound x s).late = s.late := by
  rw [inbound_eq]
@[simp] theorem inbound_hostAw (x : Answer) (s : State) : (inbound x s).hostAw = s.hostAw := by
  rw [inbound_eq]
@[simp] theorem inbound_regBase (x : Answer) (s : State) : (inbound x s).regBase = s.regBase := by
  rw [inbound_eq]
@[simp] theorem inbound_hostMem (x : Answer) (s : State) : (inbound x s).hostMem = s.hostMem := by
  rw [inbound_eq]
@[simp] theorem inbound_hostReads (x : Answer) (s : State) : (inbound x s).hostReads = s.hostReads := by
  rw [inbound_eq]
@[simp] theorem inbound_inputs (x : Answer) (s : State) : (inbound x s).inputs = s.inputs := by
  rw [inbound_eq]
@[simp] theorem inbound_env (x : Answer) (s : State) : (inbound x s).env = s.env := by
  rw [inbound_eq]

/-! ## `readIf` -/

@[simp] theorem readIf_data (r : Bool) (s : State) : (readIf r s).data = s.data := by
  rw [readIf_eq]
@[simp] theorem readIf_pn (r : Bool) (s : State) : (readIf r s).pn = s.pn := by
  rw [readIf_eq]
@[simp] theorem readIf_ps (r : Bool) (s : State) : (readIf r s).ps = s.ps := by
  rw [readIf_eq]
@[simp] theorem readIf_buf (r : Bool) (s : State) : (readIf r s).buf = s.buf := by
  rw [readIf_eq]
@[simp] theorem readIf_addr (r : Bool) (s : State) : (readIf r s).addr = s.addr := by
  rw [readIf_eq]
@[simp] theorem readIf_written (r : Bool) (s : State) : (readIf r s).written = s.written := by
  rw [readIf_eq]
@[simp] theorem readIf_op (r : Bool) (s : State) : (readIf r s).op = s.op := by
  rw [readIf_eq]
@[simp] theorem readIf_seq (r : Bool) (s : State) : (readIf r s).seq = s.seq := by
  rw [readIf_eq]
@[simp] theorem readIf_idx (r : Bool) (s : State) : (readIf r s).idx = s.idx := by
  rw [readIf_eq]
@[simp] theorem readIf_done (r : Bool) (s : State) : (readIf r s).done = s.done := by
  rw [readIf_eq]
@[simp] theorem readIf_ackf (r : Bool) (s : State) : (readIf r s).ackf = s.ackf := by
  rw [readIf_eq]
@[simp] theorem readIf_result (r : Bool) (s : State) : (readIf r s).result = s.result := by
  rw [readIf_eq]
@[simp] theorem readIf_busy (r : Bool) (s : State) : (readIf r s).busy = s.busy := by
  rw [readIf_eq]
@[simp] theorem readIf_inframe (r : Bool) (s : State) : (readIf r s).inframe = s.inframe := by
  rw [readIf_eq]
@[simp] theorem readIf_inited (r : Bool) (s : State) : (readIf r s).inited = s.inited := by
  rw [readIf_eq]
@[simp] theorem readIf_cfgTiming (r : Bool) (s : State) : (readIf r s).cfgTiming = s.cfgTiming := by
  rw [readIf_eq]
@[simp] theorem readIf_retryBudget (r : Bool) (s : State) : (readIf r s).retryBudget = s.retryBudget := by
  rw [readIf_eq]
@[simp] theorem readIf_cnt (r : Bool) (s : State) : (readIf r s).cnt = s.cnt := by
  rw [readIf_eq]
@[simp] theorem readIf_trace (r : Bool) (s : State) : (readIf r s).trace = s.trace := by
  rw [readIf_eq]
@[simp] theorem readIf_raised (r : Bool) (s : State) : (readIf r s).raised = s.raised := by
  rw [readIf_eq]
@[simp] theorem readIf_late (r : Bool) (s : State) : (readIf r s).late = s.late := by
  rw [readIf_eq]
@[simp] theorem readIf_hostAw (r : Bool) (s : State) : (readIf r s).hostAw = s.hostAw := by
  rw [readIf_eq]
@[simp] theorem readIf_regBase (r : Bool) (s : State) : (readIf r s).regBase = s.regBase := by
  rw [readIf_eq]
@[simp] theorem readIf_hostMem (r : Bool) (s : State) : (readIf r s).hostMem = s.hostMem := by
  rw [readIf_eq]
@[simp] theorem readIf_hostReads (r : Bool) (s : State) : (readIf r s).hostReads = s.hostReads := by
  rw [readIf_eq]
@[simp] theorem readIf_inputs (r : Bool) (s : State) : (readIf r s).inputs = s.inputs := by
  rw [readIf_eq]
@[simp] theorem readIf_env (r : Bool) (s : State) : (readIf r s).env = s.env := by
  rw [readIf_eq]

/-! ## `deliver` -/

@[simp] theorem deliver_data (e : Outbound) (x : Answer) (s : State) : (deliver e x s).data = s.data := by
  rw [deliver, reachIf_eq]; rfl
@[simp] theorem deliver_pn (e : Outbound) (x : Answer) (s : State) : (deliver e x s).pn = s.pn := by
  rw [deliver, reachIf_eq]; rfl
@[simp] theorem deliver_ps (e : Outbound) (x : Answer) (s : State) : (deliver e x s).ps = s.ps := by
  rw [deliver, reachIf_eq]; rfl
@[simp] theorem deliver_buf (e : Outbound) (x : Answer) (s : State) : (deliver e x s).buf = s.buf := by
  rw [deliver, reachIf_eq]; rfl
@[simp] theorem deliver_addr (e : Outbound) (x : Answer) (s : State) : (deliver e x s).addr = s.addr := by
  rw [deliver, reachIf_eq]; rfl
@[simp] theorem deliver_written (e : Outbound) (x : Answer) (s : State) : (deliver e x s).written = s.written := by
  rw [deliver, reachIf_eq]; rfl
@[simp] theorem deliver_op (e : Outbound) (x : Answer) (s : State) : (deliver e x s).op = s.op := by
  rw [deliver, reachIf_eq]; rfl
@[simp] theorem deliver_seq (e : Outbound) (x : Answer) (s : State) : (deliver e x s).seq = s.seq := by
  rw [deliver, reachIf_eq]; rfl
@[simp] theorem deliver_idx (e : Outbound) (x : Answer) (s : State) : (deliver e x s).idx = s.idx := by
  rw [deliver, reachIf_eq]; rfl
@[simp] theorem deliver_done (e : Outbound) (x : Answer) (s : State) : (deliver e x s).done = s.done := by
  rw [deliver, reachIf_eq]; rfl
@[simp] theorem deliver_ackf (e : Outbound) (x : Answer) (s : State) : (deliver e x s).ackf = s.ackf := by
  rw [deliver, reachIf_eq]; rfl
@[simp] theorem deliver_result (e : Outbound) (x : Answer) (s : State) : (deliver e x s).result = s.result := by
  rw [deliver, reachIf_eq]; rfl
@[simp] theorem deliver_busy (e : Outbound) (x : Answer) (s : State) : (deliver e x s).busy = s.busy := by
  rw [deliver, reachIf_eq]; rfl
@[simp] theorem deliver_inframe (e : Outbound) (x : Answer) (s : State) : (deliver e x s).inframe = s.inframe := by
  rw [deliver, reachIf_eq]; rfl
@[simp] theorem deliver_inited (e : Outbound) (x : Answer) (s : State) : (deliver e x s).inited = s.inited := by
  rw [deliver, reachIf_eq]; rfl
@[simp] theorem deliver_cfgTiming (e : Outbound) (x : Answer) (s : State) : (deliver e x s).cfgTiming = s.cfgTiming := by
  rw [deliver, reachIf_eq]; rfl
@[simp] theorem deliver_retryBudget (e : Outbound) (x : Answer) (s : State) : (deliver e x s).retryBudget = s.retryBudget := by
  rw [deliver, reachIf_eq]; rfl
@[simp] theorem deliver_cnt (e : Outbound) (x : Answer) (s : State) : (deliver e x s).cnt = s.cnt := by
  rw [deliver, reachIf_eq]; rfl
@[simp] theorem deliver_raised (e : Outbound) (x : Answer) (s : State) : (deliver e x s).raised = s.raised := by
  rw [deliver, reachIf_eq]; rfl
@[simp] theorem deliver_late (e : Outbound) (x : Answer) (s : State) : (deliver e x s).late = s.late := by
  rw [deliver, reachIf_eq]; rfl
@[simp] theorem deliver_hostAw (e : Outbound) (x : Answer) (s : State) : (deliver e x s).hostAw = s.hostAw := by
  rw [deliver, reachIf_eq]; rfl
@[simp] theorem deliver_regBase (e : Outbound) (x : Answer) (s : State) : (deliver e x s).regBase = s.regBase := by
  rw [deliver, reachIf_eq]; rfl
@[simp] theorem deliver_hostMem (e : Outbound) (x : Answer) (s : State) : (deliver e x s).hostMem = s.hostMem := by
  rw [deliver, reachIf_eq]; rfl
@[simp] theorem deliver_hostReads (e : Outbound) (x : Answer) (s : State) : (deliver e x s).hostReads = s.hostReads := by
  rw [deliver, reachIf_eq]; rfl
@[simp] theorem deliver_inputs (e : Outbound) (x : Answer) (s : State) : (deliver e x s).inputs = s.inputs := by
  rw [deliver, reachIf_eq]; rfl
@[simp] theorem deliver_env (e : Outbound) (x : Answer) (s : State) : (deliver e x s).env = s.env := by
  rw [deliver, reachIf_eq]; rfl
@[simp] theorem deliver_draws (e : Outbound) (x : Answer) (s : State) : (deliver e x s).draws = s.draws := by
  rw [deliver, reachIf_eq]; rfl

@[simp] theorem deliver_trace (e : Outbound) (x : Answer) (s : State) :
    (deliver e x s).trace = s.trace ++ [eventOf e x s] := by rw [deliver, reachIf_eq]; rfl
theorem deliver_dev (e : Outbound) (x : Answer) (s : State) :
    (deliver e x s).dev = if x = .device then s.dev.see e else s.dev := by
  rw [deliver, emit_dev, reachIf_dev]
  simp

/-! ## `acceptByte` -/

@[simp] theorem acceptByte_data (k : AckFlag) (x : Answer) (d : Nat) (s : State) :
    (acceptByte k x d s).data = inboundByte x s := by simp [acceptByte]
@[simp] theorem acceptByte_pn (k : AckFlag) (x : Answer) (d : Nat) (s : State) :
    (acceptByte k x d s).pn = s.pn := by simp [acceptByte]
@[simp] theorem acceptByte_ps (k : AckFlag) (x : Answer) (d : Nat) (s : State) :
    (acceptByte k x d s).ps = s.ps := by simp [acceptByte]
@[simp] theorem acceptByte_buf (k : AckFlag) (x : Answer) (d : Nat) (s : State) :
    (acceptByte k x d s).buf = s.buf := by simp [acceptByte]
@[simp] theorem acceptByte_addr (k : AckFlag) (x : Answer) (d : Nat) (s : State) :
    (acceptByte k x d s).addr = s.addr := by simp [acceptByte]
@[simp] theorem acceptByte_written (k : AckFlag) (x : Answer) (d : Nat) (s : State) :
    (acceptByte k x d s).written = { s.written with data := true } := by simp [acceptByte]
@[simp] theorem acceptByte_op (k : AckFlag) (x : Answer) (d : Nat) (s : State) :
    (acceptByte k x d s).op = s.op := by simp [acceptByte]
@[simp] theorem acceptByte_seq (k : AckFlag) (x : Answer) (d : Nat) (s : State) :
    (acceptByte k x d s).seq = s.seq := by simp [acceptByte]
@[simp] theorem acceptByte_idx (k : AckFlag) (x : Answer) (d : Nat) (s : State) :
    (acceptByte k x d s).idx = s.idx := by simp [acceptByte]
@[simp] theorem acceptByte_done (k : AckFlag) (x : Answer) (d : Nat) (s : State) :
    (acceptByte k x d s).done = true := by simp [acceptByte]
@[simp] theorem acceptByte_ackf (k : AckFlag) (x : Answer) (d : Nat) (s : State) :
    (acceptByte k x d s).ackf = s.ackf := by simp [acceptByte]
@[simp] theorem acceptByte_result (k : AckFlag) (x : Answer) (d : Nat) (s : State) :
    (acceptByte k x d s).result = .success := by simp [acceptByte]
@[simp] theorem acceptByte_busy (k : AckFlag) (x : Answer) (d : Nat) (s : State) :
    (acceptByte k x d s).busy = s.busy := by simp [acceptByte]
@[simp] theorem acceptByte_inframe (k : AckFlag) (x : Answer) (d : Nat) (s : State) :
    (acceptByte k x d s).inframe = s.inframe := by simp [acceptByte]
@[simp] theorem acceptByte_inited (k : AckFlag) (x : Answer) (d : Nat) (s : State) :
    (acceptByte k x d s).inited = s.inited := by simp [acceptByte]
@[simp] theorem acceptByte_cfgTiming (k : AckFlag) (x : Answer) (d : Nat) (s : State) :
    (acceptByte k x d s).cfgTiming = s.cfgTiming := by simp [acceptByte]
@[simp] theorem acceptByte_retryBudget (k : AckFlag) (x : Answer) (d : Nat) (s : State) :
    (acceptByte k x d s).retryBudget = s.retryBudget := by simp [acceptByte]
@[simp] theorem acceptByte_cnt (k : AckFlag) (x : Answer) (d : Nat) (s : State) :
    (acceptByte k x d s).cnt = BitVec.ofNat 32 d := by simp [acceptByte]
@[simp] theorem acceptByte_trace (k : AckFlag) (x : Answer) (d : Nat) (s : State) :
    (acceptByte k x d s).trace = s.trace ++ [.r (inboundByte x s) (ackOf k)] := by simp [acceptByte]
@[simp] theorem acceptByte_raised (k : AckFlag) (x : Answer) (d : Nat) (s : State) :
    (acceptByte k x d s).raised = s.raised := by simp [acceptByte]
@[simp] theorem acceptByte_late (k : AckFlag) (x : Answer) (d : Nat) (s : State) :
    (acceptByte k x d s).late = s.late := by simp [acceptByte]
@[simp] theorem acceptByte_hostAw (k : AckFlag) (x : Answer) (d : Nat) (s : State) :
    (acceptByte k x d s).hostAw = s.hostAw := by simp [acceptByte]
@[simp] theorem acceptByte_regBase (k : AckFlag) (x : Answer) (d : Nat) (s : State) :
    (acceptByte k x d s).regBase = s.regBase := by simp [acceptByte]
@[simp] theorem acceptByte_hostMem (k : AckFlag) (x : Answer) (d : Nat) (s : State) :
    (acceptByte k x d s).hostMem = s.hostMem := by simp [acceptByte]
@[simp] theorem acceptByte_hostReads (k : AckFlag) (x : Answer) (d : Nat) (s : State) :
    (acceptByte k x d s).hostReads = s.hostReads := by simp [acceptByte]
@[simp] theorem acceptByte_dev (k : AckFlag) (x : Answer) (d : Nat) (s : State) :
    (acceptByte k x d s).dev = (inbound x s).dev := by simp [acceptByte]
@[simp] theorem acceptByte_inputs (k : AckFlag) (x : Answer) (d : Nat) (s : State) :
    (acceptByte k x d s).inputs = s.inputs := by simp [acceptByte]
@[simp] theorem acceptByte_env (k : AckFlag) (x : Answer) (d : Nat) (s : State) :
    (acceptByte k x d s).env = s.env := by simp [acceptByte]
@[simp] theorem acceptByte_draws (k : AckFlag) (x : Answer) (d : Nat) (s : State) :
    (acceptByte k x d s).draws = (inbound x s).draws := by simp [acceptByte]

/-! ## `requested` -/

@[simp] theorem requested_data (k : AckFlag) (s : State) : (requested k s).data = s.data := rfl
@[simp] theorem requested_pn (k : AckFlag) (s : State) : (requested k s).pn = s.pn := rfl
@[simp] theorem requested_ps (k : AckFlag) (s : State) : (requested k s).ps = s.ps := rfl
@[simp] theorem requested_buf (k : AckFlag) (s : State) : (requested k s).buf = s.buf := rfl
@[simp] theorem requested_addr (k : AckFlag) (s : State) : (requested k s).addr = s.addr := rfl
@[simp] theorem requested_written (k : AckFlag) (s : State) : (requested k s).written = s.written := rfl
@[simp] theorem requested_op (k : AckFlag) (s : State) : (requested k s).op = s.op := rfl
@[simp] theorem requested_seq (k : AckFlag) (s : State) : (requested k s).seq = s.seq := rfl
@[simp] theorem requested_idx (k : AckFlag) (s : State) : (requested k s).idx = s.idx := rfl
@[simp] theorem requested_done (k : AckFlag) (s : State) : (requested k s).done = false := rfl
@[simp] theorem requested_ackf (k : AckFlag) (s : State) : (requested k s).ackf = k := rfl
@[simp] theorem requested_result (k : AckFlag) (s : State) : (requested k s).result = s.result := rfl
@[simp] theorem requested_busy (k : AckFlag) (s : State) : (requested k s).busy = s.busy := rfl
@[simp] theorem requested_inframe (k : AckFlag) (s : State) : (requested k s).inframe = s.inframe := rfl
@[simp] theorem requested_inited (k : AckFlag) (s : State) : (requested k s).inited = s.inited := rfl
@[simp] theorem requested_cfgTiming (k : AckFlag) (s : State) : (requested k s).cfgTiming = s.cfgTiming := rfl
@[simp] theorem requested_retryBudget (k : AckFlag) (s : State) : (requested k s).retryBudget = s.retryBudget := rfl
@[simp] theorem requested_cnt (k : AckFlag) (s : State) : (requested k s).cnt = s.cnt := rfl
@[simp] theorem requested_trace (k : AckFlag) (s : State) : (requested k s).trace = s.trace := rfl
@[simp] theorem requested_raised (k : AckFlag) (s : State) : (requested k s).raised = s.raised := rfl
@[simp] theorem requested_late (k : AckFlag) (s : State) : (requested k s).late = false := rfl
@[simp] theorem requested_hostAw (k : AckFlag) (s : State) : (requested k s).hostAw = s.hostAw := rfl
@[simp] theorem requested_regBase (k : AckFlag) (s : State) : (requested k s).regBase = s.regBase := rfl
@[simp] theorem requested_hostMem (k : AckFlag) (s : State) : (requested k s).hostMem = s.hostMem := rfl
@[simp] theorem requested_hostReads (k : AckFlag) (s : State) : (requested k s).hostReads = s.hostReads := rfl
@[simp] theorem requested_dev (k : AckFlag) (s : State) : (requested k s).dev = s.dev := rfl
@[simp] theorem requested_inputs (k : AckFlag) (s : State) : (requested k s).inputs = s.inputs := rfl
@[simp] theorem requested_env (k : AckFlag) (s : State) : (requested k s).env = s.env := rfl
@[simp] theorem requested_draws (k : AckFlag) (s : State) : (requested k s).draws = s.draws := rfl

/-! ## `scribble` -/

@[simp] theorem scribble_data (n : Nat) (a : Nat) (s : State) : (scribble n a s).data = s.data := by
  induction n generalizing a s with
  | zero => rfl
  | succ n ih => rw [scribble, ih]; rfl
@[simp] theorem scribble_pn (n : Nat) (a : Nat) (s : State) : (scribble n a s).pn = s.pn := by
  induction n generalizing a s with
  | zero => rfl
  | succ n ih => rw [scribble, ih]; rfl
@[simp] theorem scribble_ps (n : Nat) (a : Nat) (s : State) : (scribble n a s).ps = s.ps := by
  induction n generalizing a s with
  | zero => rfl
  | succ n ih => rw [scribble, ih]; rfl
@[simp] theorem scribble_buf (n : Nat) (a : Nat) (s : State) : (scribble n a s).buf = s.buf := by
  induction n generalizing a s with
  | zero => rfl
  | succ n ih => rw [scribble, ih]; rfl
@[simp] theorem scribble_addr (n : Nat) (a : Nat) (s : State) : (scribble n a s).addr = s.addr := by
  induction n generalizing a s with
  | zero => rfl
  | succ n ih => rw [scribble, ih]; rfl
@[simp] theorem scribble_written (n : Nat) (a : Nat) (s : State) : (scribble n a s).written = s.written := by
  induction n generalizing a s with
  | zero => rfl
  | succ n ih => rw [scribble, ih]; rfl
@[simp] theorem scribble_op (n : Nat) (a : Nat) (s : State) : (scribble n a s).op = s.op := by
  induction n generalizing a s with
  | zero => rfl
  | succ n ih => rw [scribble, ih]; rfl
@[simp] theorem scribble_seq (n : Nat) (a : Nat) (s : State) : (scribble n a s).seq = s.seq := by
  induction n generalizing a s with
  | zero => rfl
  | succ n ih => rw [scribble, ih]; rfl
@[simp] theorem scribble_idx (n : Nat) (a : Nat) (s : State) : (scribble n a s).idx = s.idx := by
  induction n generalizing a s with
  | zero => rfl
  | succ n ih => rw [scribble, ih]; rfl
@[simp] theorem scribble_done (n : Nat) (a : Nat) (s : State) : (scribble n a s).done = s.done := by
  induction n generalizing a s with
  | zero => rfl
  | succ n ih => rw [scribble, ih]; rfl
@[simp] theorem scribble_ackf (n : Nat) (a : Nat) (s : State) : (scribble n a s).ackf = s.ackf := by
  induction n generalizing a s with
  | zero => rfl
  | succ n ih => rw [scribble, ih]; rfl
@[simp] theorem scribble_result (n : Nat) (a : Nat) (s : State) : (scribble n a s).result = s.result := by
  induction n generalizing a s with
  | zero => rfl
  | succ n ih => rw [scribble, ih]; rfl
@[simp] theorem scribble_busy (n : Nat) (a : Nat) (s : State) : (scribble n a s).busy = s.busy := by
  induction n generalizing a s with
  | zero => rfl
  | succ n ih => rw [scribble, ih]; rfl
@[simp] theorem scribble_inframe (n : Nat) (a : Nat) (s : State) : (scribble n a s).inframe = s.inframe := by
  induction n generalizing a s with
  | zero => rfl
  | succ n ih => rw [scribble, ih]; rfl
@[simp] theorem scribble_inited (n : Nat) (a : Nat) (s : State) : (scribble n a s).inited = s.inited := by
  induction n generalizing a s with
  | zero => rfl
  | succ n ih => rw [scribble, ih]; rfl
@[simp] theorem scribble_cfgTiming (n : Nat) (a : Nat) (s : State) : (scribble n a s).cfgTiming = s.cfgTiming := by
  induction n generalizing a s with
  | zero => rfl
  | succ n ih => rw [scribble, ih]; rfl
@[simp] theorem scribble_retryBudget (n : Nat) (a : Nat) (s : State) : (scribble n a s).retryBudget = s.retryBudget := by
  induction n generalizing a s with
  | zero => rfl
  | succ n ih => rw [scribble, ih]; rfl
@[simp] theorem scribble_cnt (n : Nat) (a : Nat) (s : State) : (scribble n a s).cnt = s.cnt := by
  induction n generalizing a s with
  | zero => rfl
  | succ n ih => rw [scribble, ih]; rfl
@[simp] theorem scribble_trace (n : Nat) (a : Nat) (s : State) : (scribble n a s).trace = s.trace := by
  induction n generalizing a s with
  | zero => rfl
  | succ n ih => rw [scribble, ih]; rfl
@[simp] theorem scribble_raised (n : Nat) (a : Nat) (s : State) : (scribble n a s).raised = s.raised := by
  induction n generalizing a s with
  | zero => rfl
  | succ n ih => rw [scribble, ih]; rfl
@[simp] theorem scribble_late (n : Nat) (a : Nat) (s : State) : (scribble n a s).late = s.late := by
  induction n generalizing a s with
  | zero => rfl
  | succ n ih => rw [scribble, ih]; rfl
@[simp] theorem scribble_hostAw (n : Nat) (a : Nat) (s : State) : (scribble n a s).hostAw = s.hostAw := by
  induction n generalizing a s with
  | zero => rfl
  | succ n ih => rw [scribble, ih]; rfl
@[simp] theorem scribble_regBase (n : Nat) (a : Nat) (s : State) : (scribble n a s).regBase = s.regBase := by
  induction n generalizing a s with
  | zero => rfl
  | succ n ih => rw [scribble, ih]; rfl
@[simp] theorem scribble_hostReads (n : Nat) (a : Nat) (s : State) : (scribble n a s).hostReads = s.hostReads := by
  induction n generalizing a s with
  | zero => rfl
  | succ n ih => rw [scribble, ih]; rfl
@[simp] theorem scribble_dev (n : Nat) (a : Nat) (s : State) : (scribble n a s).dev = s.dev := by
  induction n generalizing a s with
  | zero => rfl
  | succ n ih => rw [scribble, ih]; rfl
@[simp] theorem scribble_inputs (n : Nat) (a : Nat) (s : State) : (scribble n a s).inputs = s.inputs := by
  induction n generalizing a s with
  | zero => rfl
  | succ n ih => rw [scribble, ih]; rfl
@[simp] theorem scribble_env (n : Nat) (a : Nat) (s : State) : (scribble n a s).env = s.env := by
  induction n generalizing a s with
  | zero => rfl
  | succ n ih => rw [scribble, ih]; rfl

/-! ## Waiting -/

/-- A wait leaves every register, both memories, the histories and the list of arrivals alone. -/
theorem Waits.fields {s t : State} (h : Waits s t) :
    t.data = s.data ∧ t.pn = s.pn ∧ t.ps = s.ps ∧ t.buf = s.buf ∧ t.addr = s.addr ∧ t.written =
    s.written ∧ t.op = s.op ∧ t.seq = s.seq ∧ t.idx = s.idx ∧ t.done = s.done ∧ t.ackf = s.ackf ∧
    t.result = s.result ∧ t.busy = s.busy ∧ t.inframe = s.inframe ∧ t.inited = s.inited ∧
    t.cfgTiming = s.cfgTiming ∧ t.retryBudget = s.retryBudget ∧ t.cnt = s.cnt ∧ t.trace = s.trace
    ∧ t.raised = s.raised ∧ t.late = s.late ∧ t.hostAw = s.hostAw ∧ t.regBase = s.regBase ∧
    t.hostMem = s.hostMem ∧ t.dev = s.dev ∧ t.inputs = s.inputs := by
  unfold Waits at h
  rw [h]
  simp

/-- Interludes leave every register but `DONE`, both memories, the histories, the arrivals and the draws
alone. -/
theorem Gaps.fields {s t : State} (h : Gaps s t) :
    t.data = s.data ∧ t.pn = s.pn ∧ t.ps = s.ps ∧ t.buf = s.buf ∧ t.addr = s.addr ∧ t.written =
    s.written ∧ t.op = s.op ∧ t.seq = s.seq ∧ t.idx = s.idx ∧ t.ackf = s.ackf ∧ t.result =
    s.result ∧ t.busy = s.busy ∧ t.inframe = s.inframe ∧ t.inited = s.inited ∧ t.cfgTiming =
    s.cfgTiming ∧ t.retryBudget = s.retryBudget ∧ t.cnt = s.cnt ∧ t.trace = s.trace ∧ t.raised =
    s.raised ∧ t.hostAw = s.hostAw ∧ t.regBase = s.regBase ∧ t.hostMem = s.hostMem ∧ t.dev = s.dev
    ∧ t.inputs = s.inputs ∧ t.draws = s.draws := by
  unfold Gaps at h
  rw [h]
  simp

end Sys2Proof.Machine
end

