-- ==== Sys2Proof/Laws/Pages.lean ====
section
/-! SUPPORT. What the page commands can do, said once: a rule that carries one predicate `P` that
holds outside a frame and one, `Q`, inside it, through every primitive of the expansion. -/

namespace Sys2Proof.Machine

/-- What carries `P` (outside a frame) and `Q` (inside) through the primitives of a page command,
with `F`, `H`, `R` for the ends by Bus Timeout, by a hang, and by reset. -/
structure Carries (P Q F H R : State → Prop) : Prop where
  seqP : ∀ n s, P s → P (setSeq n s)
  seqQ : ∀ n s, Q s → Q (setSeq n s)
  idxQ : ∀ n s, Q s → Q (setIdx n s)
  gapP : ∀ s t, P s → Gaps s t → P t
  gapQ : ∀ s t, Q s → Gaps s t → Q t
  resetP : ∀ s t, P s → Gaps s t → R (takeReset t)
  resetQ : ∀ s t, Q s → Gaps s t → R (takeReset t)
  start : ∀ s, P s → (transmit .start s).Ends Q (fun _ => False) H R
  stop : ∀ s, Q s → (transmit .stop s).Ends P (fun _ => False) H R
  send : ∀ b s, Q s → (sendByte b s).Ends Q (fun _ => False) H R

/-- What carries `Q` through the inbound bytes of READ_PAGE. -/
structure CarriesReads (Q F R : State → Prop) : Prop where
  store : ∀ a b s, Q s → Q (memWrite a b s)
  idxQ : ∀ n s, Q s → Q (setIdx n s)
  gapQ : ∀ s t, Q s → Gaps s t → Q t
  resetQ : ∀ s t, Q s → Gaps s t → R (takeReset t)
  receive : ∀ k i s, Q s → (receive k (some i) s).Ends Q F (fun _ => False) R
  scribble : ∀ a b s, F s → F (drawn (memWrite a b s))

theorem Carries.paceStart {P Q F H R : State → Prop} (h : Carries P Q F H R) {s : State} (hs : P s) :
    (paced (transmit .start) s).Ends Q (fun _ => False) H R :=
  paced_ends (fun t ht => h.start t (h.gapP s t hs ht)) (fun t ht => h.resetP s t hs ht)

theorem Carries.paceStop {P Q F H R : State → Prop} (h : Carries P Q F H R) {s : State} (hs : Q s) :
    (paced (transmit .stop) s).Ends P (fun _ => False) H R :=
  paced_ends (fun t ht => h.stop t (h.gapQ s t hs ht)) (fun t ht => h.resetQ s t hs ht)

theorem Carries.paceSend {P Q F H R : State → Prop} (h : Carries P Q F H R) (b : Byte) {s : State}
    (hs : Q s) : (paced (sendByte b) s).Ends Q (fun _ => False) H R :=
  paced_ends (fun t ht => h.send b t (h.gapQ s t hs ht)) (fun t ht => h.resetQ s t hs ht)

theorem CarriesReads.paceReceive {Q F R : State → Prop} (h : CarriesReads Q F R) (k : AckFlag)
    (i : Word) {s : State} (hs : Q s) :
    (paced (Machine.receive k (some i)) s).Ends Q F (fun _ => False) R :=
  paced_ends (fun t ht => h.receive k i t (h.gapQ s t hs ht)) (fun t ht => h.resetQ s t hs ht)

theorem scribble_carries {F : State → Prop} (h : ∀ a b s, F s → F (drawn (memWrite a b s))) :
    ∀ (n : Nat) (a : Nat) (s : State), F s → F (scribble n a s)
  | 0, _, _, hs => hs
  | n + 1, _, _, hs => scribble_carries h n _ _ (h _ _ _ hs)

theorem abortRead_ends {Q F R : State → Prop} {x : Run} {n : Nat}
    (h : ∀ a b s, F s → F (drawn (memWrite a b s)))
    (hx : x.Ends Q F (fun _ => False) R) : (abortRead n x).Ends Q F (fun _ => False) R := by
  cases x <;> simp only [Run.Ends, abortRead] at hx ⊢
  · exact hx
  · exact scribble_carries h _ _ _ hx
  · exact hx

theorem readBytes_ends {Q F R : State → Prop} (h : CarriesReads Q F R) :
    ∀ (n : Nat) (s : State), Q s → (readBytes n s).Ends Q F (fun _ => False) R
  | 0, _, hs => hs
  | n + 1, _, hs =>
    (abortRead_ends h.scribble (h.paceReceive _ _ hs)).andThen fun _ ht =>
      readBytes_ends h n _ (h.idxQ _ _ (h.store _ _ _ ht))

theorem writeBytes_ends {P Q F H R : State → Prop} (h : Carries P Q F H R) :
    ∀ (n : Nat) (s : State), Q s → (writeBytes n s).Ends Q (fun _ => False) H R
  | 0, _, hs => hs
  | n + 1, _, hs =>
    (h.paceSend _ hs).andThen fun _ ht => writeBytes_ends h n _ (h.idxQ _ _ ht)

/-- Where a page command stands before INIT, as a predicate that INIT turns into `P`. -/
structure Begins (B P R : State → Prop) (s : State) : Prop where
  launched : B (setSeq 1 s)
  gap : ∀ u v, B u → Gaps u v → B v
  reset : ∀ u v, B u → Gaps u v → R (takeReset v)
  init : ∀ u, B u → P (translate (setSeq 2 (configure u)))

theorem sendAddress_ends {B P Q F H R : State → Prop} (h : Carries P Q F H R) {s : State}
    (hs : Begins B P R s) : (sendAddress s).Ends Q (fun _ => False) H R := by
  have h0 : (paced initialise (setSeq 1 s)).Ends (fun r => P (translate (setSeq 2 r)))
      (fun _ => False) H R :=
    paced_ends (fun t ht => hs.init t (hs.gap _ t hs.launched ht))
      (fun t ht => hs.reset _ t hs.launched ht)
  exact h0.andThen fun _ hr => (h.paceStart hr).andThen fun _ ht => (h.paceSend _ ht).andThen fun _ hu =>
    (h.paceSend _ hu).andThen fun _ hv => h.paceSend _ hv

/-- Everything WRITE_PAGE can do: complete with `P`, hang with `H`, or be reset with `R`. -/
theorem writePageBody_ends {B P Q F H R : State → Prop} (h : Carries P Q F H R) {s : State}
    (hs : Begins B P R s) : (writePageBody s).Ends P (fun _ => False) H R :=
  (sendAddress_ends h hs).andThen fun _ ht =>
    (writeBytes_ends h _ _ (h.idxQ _ _ (h.seqQ _ _ ht))).andThen fun _ hu =>
      h.paceStop (h.seqQ _ _ hu)

/-- Everything READ_PAGE can do: complete with `P`, fail with `F`, hang with `H`, or be reset with
`R`. -/
theorem readPageBody_ends {B P Q F H R : State → Prop} (h : Carries P Q F H R)
    (hr : CarriesReads Q F R) {s : State} (hs : Begins B P R s) :
    (readPageBody s).Ends P F H R := by
  have lift : ∀ {x : Run} {C : State → Prop}, x.Ends C (fun _ => False) H R → x.Ends C F H R :=
    fun hx => hx.mono (fun _ => id) (fun _ => False.elim) (fun _ => id) (fun _ => id)
  exact (lift (sendAddress_ends h hs)).andThen fun _ ht =>
    (lift (h.paceStop ht)).andThen fun _ hu =>
    (lift (h.paceStart (h.seqP _ _ hu))).andThen fun _ hv =>
    (lift (h.paceSend _ hv)).andThen fun _ hw =>
    ((readBytes_ends hr _ _ (h.idxQ _ _ (h.seqQ _ _ hw))).mono (fun _ => id) (fun _ => id)
      (fun _ => False.elim) (fun _ => id)).andThen fun _ hx => lift (h.paceStop (h.seqQ _ _ hx))

end Sys2Proof.Machine
end

