-- ==== Sys2Proof/Laws/PerInstr.lean ====
section
/-! SUPPORT. A statement about every command as syntax, one lemma per constructor: its command byte is
read back as the command, by the decoder and through the host's reading of an opcode-table row. -/

/-- The command byte of a well-formed command decodes to that command (30_encoding.md rules R58, R59,
R61). -/
def Sys2Proof.Laws.EncodeRoundTrip.Statement (i : Sys2Proof.Instr) : Prop :=
  i.wellFormed = true ∧ Sys2Proof.decode (Sys2Proof.encode i) = .ok i ∧
    Sys2Proof.decodeTableWord 8 (Sys2Proof.encode i).toNat = some i

theorem Sys2Proof.Laws.EncodeRoundTrip.init :
    Sys2Proof.Laws.EncodeRoundTrip.Statement .init := ⟨rfl, rfl, rfl⟩

theorem Sys2Proof.Laws.EncodeRoundTrip.start :
    Sys2Proof.Laws.EncodeRoundTrip.Statement .start := ⟨rfl, rfl, rfl⟩

theorem Sys2Proof.Laws.EncodeRoundTrip.stop :
    Sys2Proof.Laws.EncodeRoundTrip.Statement .stop := ⟨rfl, rfl, rfl⟩

theorem Sys2Proof.Laws.EncodeRoundTrip.writeByte :
    Sys2Proof.Laws.EncodeRoundTrip.Statement .writeByte := ⟨rfl, rfl, rfl⟩

theorem Sys2Proof.Laws.EncodeRoundTrip.readByte (k : Sys2Proof.AckFlag) :
    Sys2Proof.Laws.EncodeRoundTrip.Statement (.readByte k) := by
  cases k <;> exact ⟨rfl, rfl, rfl⟩

theorem Sys2Proof.Laws.EncodeRoundTrip.readPage :
    Sys2Proof.Laws.EncodeRoundTrip.Statement .readPage := ⟨rfl, rfl, rfl⟩

theorem Sys2Proof.Laws.EncodeRoundTrip.writePage :
    Sys2Proof.Laws.EncodeRoundTrip.Statement .writePage := ⟨rfl, rfl, rfl⟩
end

