-- ==== Sys2Proof/Laws/Step.lean ====
section
/-! SUPPORT. What one step can do, said once, and what a command runs. -/

namespace Sys2Proof.Machine

theorem step_nil {s : State} (h : s.inputs = []) : step s = .next s := by
  simp [step, stepOnce, h]

theorem step_cons {s : State} {x : Input} {rest : List Input} (h : s.inputs = x :: rest) :
    step s = arrive x { s with inputs := rest } := by
  simp [step, stepOnce, h]

/-- An access of the host while idle, other than a launch, writes operand registers or gives the host a
value. -/
theorem idleAccess_keeps {a : Access} {s t : State} (h : idleAccess a s = .ok t) :
    t = { s with
      data := t.data, pn := t.pn, ps := t.ps, buf := t.buf, written := t.written
      hostReads := t.hostReads } := by
  have give : ∀ {v : Except Refusal Nat}, giveRead v s = .ok t →
      t = { s with hostReads := t.hostReads } := by
    intro v hv
    cases v <;> simp only [giveRead] at hv
    · cases hv
    · cases hv; rfl
  cases a with
  | rd width off =>
    simp only [idleAccess] at h
    split at h
    · rw [give h]
    · cases h
  | wr width off v =>
    simp only [idleAccess] at h
    split at h
    · cases h
      simp only [writeAt]
      split
      · rfl
      · repeat (split; · rfl)
        rfl
    · cases h

/-- `BUF` takes a value of `HOST_AW` bits, or keeps its own. -/
theorem idleAccess_buf {a : Access} {s t : State} (h : idleAccess a s = .ok t) :
    t.buf = s.buf ∨ t.buf < hostSize s := by
  cases a with
  | rd width off =>
    simp only [idleAccess] at h
    split at h
    · cases hr : readAt off s <;> simp only [hr, giveRead] at h
      · cases h
      · cases h; exact .inl rfl
    · cases h
  | wr width off v =>
    simp only [idleAccess] at h
    split at h
    · rename_i hw
      cases h
      by_cases h8 : off = 0x08
      · subst h8
        obtain rfl : s.hostAw = width := by simpa [widthAt] using hw
        exact .inr v.isLt
      · left
        simp only [writeAt, h8, if_false]
        split
        · rfl
        · repeat (split; · rfl)
          rfl
    · cases h

theorem served_next {x : Except Refusal State} {t : State} (h : served x = .next t) : x = .ok t := by
  cases x <;> simp only [served, Host.Outcome.next.injEq, reduceCtorEq] at h
  rw [h]

/-- Everything a step can do when it answers a next state; `u` is the state with the arrival taken off
the list. -/
theorem step_cases {s t : State} (h : step s = .next t) :
    (s.inputs = [] ∧ t = s) ∨
    ∃ x rest u, s.inputs = x :: rest ∧ u = { s with inputs := rest } ∧
      ((u.busy = true ∧ t = { u with hostReads := t.hostReads }) ∨
       (u.busy = false ∧ ∃ i, exec i u = .next t) ∨
       (u.busy = false ∧ (t.buf = u.buf ∨ t.buf < hostSize u) ∧ t = { u with
          data := t.data, pn := t.pn, ps := t.ps, buf := t.buf, written := t.written
          hostReads := t.hostReads }) ∨
       (ownsBuffer u = false ∧ ∃ a b, t = memWrite a b u) ∨
       (x = .reset ∧ t = takeReset u) ∨
       (∃ on, t = switchGate on u) ∨
       t = completeLate u) := by
  cases hi : s.inputs with
  | nil =>
    rw [step_nil hi] at h
    cases h
    exact .inl ⟨rfl, rfl⟩
  | cons x rest =>
    rw [step_cons hi] at h
    refine .inr ⟨x, rest, _, rfl, rfl, ?_⟩
    cases x with
    | access a =>
      simp only [arrive, access] at h
      split at h
      · exact .inl ⟨‹_›, busyAccess_waits (served_next h)⟩
      · have hb := Bool.eq_false_iff.2 ‹_›
        split at h
        · rename_i b _
          unfold writeCmd at h
          cases hd : decode b with
          | ok i => rw [hd] at h; exact .inr (.inl ⟨hb, i, h⟩)
          | error w => rw [hd] at h; cases h
        · exact .inr (.inr (.inl ⟨hb, idleAccess_buf (served_next h), idleAccess_keeps (served_next h)⟩))
    | store a b =>
      simp only [arrive] at h
      split at h
      · cases h
      · cases h
        exact .inr (.inr (.inr (.inl ⟨Bool.eq_false_iff.2 ‹_›, a, b, rfl⟩)))
    | reset => cases h; exact .inr (.inr (.inr (.inr (.inl ⟨rfl, rfl⟩))))
    | gate on => cases h; exact .inr (.inr (.inr (.inr (.inr (.inl ⟨on, rfl⟩)))))
    | lateCompletion => cases h; exact .inr (.inr (.inr (.inr (.inr (.inr rfl)))))

/-- What a command runs once it is launched. -/
def body : Instr → State → State → Run
  | .init, _, t => initialise t
  | .start, _, t => transmit .start t
  | .stop, _, t => transmit .stop t
  | .writeByte, s, t => sendByte s.data t
  | .readByte k, _, t => receive k none t
  | .readPage, _, t => readPageBody t
  | .writePage, _, t => writePageBody t

/-- Every command is issued in the same way. -/
theorem exec_eq (i : Instr) (s : State) : exec i s = issue i (missing i s) (body i s) s := by
  cases i <;> rfl

/-- From an idle block with nothing missing, a command runs. -/
theorem exec_ready {i : Instr} {s : State} (hb : s.busy = false) (hm : missing i s = none) :
    exec i s = (body i s (launch i s)).outcome := by
  rw [exec_eq, issue_ready hb hm]

/-- From an idle block with something missing, a command is refused before it does anything. -/
theorem exec_missing {i : Instr} {s : State} {r : Refusal} (hb : s.busy = false)
    (hm : missing i s = some r) : exec i s = .refused r := by
  rw [exec_eq, issue_missing hb hm]

/-- A command that answers a next state from an idle block was ready, and ran. -/
theorem exec_next {i : Instr} {s t : State} (hb : s.busy = false) (h : exec i s = .next t) :
    missing i s = none ∧ (body i s (launch i s)).outcome = .next t := by
  rw [exec_eq] at h
  exact issue_next hb h

/-- What the requirements of the commands mean when nothing is missing. -/
theorem needInited_none {s : State} (h : needInited s = none) : s.inited = true := by
  unfold needInited at h
  split at h
  · assumption
  · cases h

theorem needFrame_none {s : State} (h : needFrame s = none) :
    s.inited = true ∧ s.inframe = true := by
  unfold needFrame orElse at h
  split at h
  · cases h
  · refine ⟨needInited_none ‹_›, ?_⟩
    split at h
    · assumption
    · cases h

theorem needData_none {s : State} (h : needData s = none) :
    s.inited = true ∧ s.inframe = true ∧ s.written.data = true := by
  unfold needData orElse at h
  split at h
  · cases h
  · have := needFrame_none ‹_›
    refine ⟨this.1, this.2, ?_⟩
    unfold needValue at h
    split at h
    · assumption
    · cases h

theorem needPage_none {s : State} (h : needPage s = none) :
    s.written.pn = true ∧ s.written.ps = true ∧ s.written.buf = true ∧ s.ps ≠ 0 ∧
      bufferOverlaps s = false := by
  unfold needPage at h
  by_cases h1 : s.written.pn = true <;> by_cases h2 : s.written.ps = true <;>
    by_cases h3 : s.written.buf = true <;> by_cases h4 : s.ps = 0 <;>
    cases h5 : bufferOverlaps s <;> simp_all [orElse, needValue]

/-- A page buffer that a command accepts is smaller than the host's address space, so that its bytes have
addresses of their own. -/
theorem needPage_fits {s : State} (h : needPage s = none) : s.ps.toNat < hostSize s := by
  obtain ⟨_, _, _, hp, ho⟩ := needPage_none h
  have h1 : ¬ hostDistance s.buf s.regBase s < s.ps.toNat := fun h => by
    rw [bufferOverlaps, decide_eq_true hp, decide_eq_true h] at ho
    cases ho
  have h2 : hostDistance s.buf s.regBase s < hostSize s := Nat.mod_lt _ (hostSize_pos s)
  omega

/-- Everything a command can do from an idle block, by what each command's own run can do: completed
with `C`, failed with `F` (READ_BYTE and READ_PAGE only), hung with `H` (any but INIT and READ_BYTE),
or reset with `R`. -/
theorem exec_ends {i : Instr} {s t : State} {C F H R : State → Prop} (hb : s.busy = false)
    (h : exec i s = .next t)
    (hi : i = .init → C (configure (launch i s)))
    (hs : i = .start → s.inited = true →
      (transmit .start (launch i s)).Ends C (fun _ => False) H R)
    (hp : i = .stop → s.inited = true → s.inframe = true →
      (transmit .stop (launch i s)).Ends C (fun _ => False) H R)
    (hw : i = .writeByte → s.inited = true → s.inframe = true →
      (sendByte s.data (launch i s)).Ends C (fun _ => False) H R)
    (hr : ∀ k, i = .readByte k → s.inited = true → s.inframe = true →
      (receive k none (launch i s)).Ends C F (fun _ => False) R)
    (hrp : i = .readPage → needPage s = none → (readPageBody (launch i s)).Ends C F H R)
    (hwp : i = .writePage → needPage s = none →
      (writePageBody (launch i s)).Ends C (fun _ => False) H R) :
    (∃ u, C u ∧ t = finish u) ∨
    (∃ u, F u ∧ ((∃ k, i = .readByte k) ∨ i = .readPage) ∧ t = finish u) ∨
    (H t ∧ i ≠ .init ∧ ∀ k, i ≠ .readByte k) ∨ R t := by
  obtain ⟨hm, ho⟩ := exec_next hb h
  have outbound : ∀ {x : Run}, x.outcome = .next t → x.Ends C (fun _ => False) H R →
      (∃ u, C u ∧ t = finish u) ∨ H t ∨ R t := fun hx he =>
    (he.outcome hx).elim .inl fun h' => h'.elim (fun ⟨_, f, _⟩ => f.elim) .inr
  cases i with
  | init => cases ho; exact .inl ⟨_, hi rfl, rfl⟩
  | start =>
    exact (outbound ho (hs rfl (needInited_none hm))).imp_right fun h' =>
      .inr (h'.imp_left fun hh => ⟨hh, by simp, by simp⟩)
  | stop =>
    exact (outbound ho (hp rfl (needFrame_none hm).1 (needFrame_none hm).2)).imp_right fun h' =>
      .inr (h'.imp_left fun hh => ⟨hh, by simp, by simp⟩)
  | writeByte =>
    exact (outbound ho (hw rfl (needData_none hm).1 (needData_none hm).2.1)).imp_right fun h' =>
      .inr (h'.imp_left fun hh => ⟨hh, by simp, by simp⟩)
  | readByte k =>
    rcases (hr k rfl (needFrame_none hm).1 (needFrame_none hm).2).outcome ho with h' | ⟨u, f, e⟩ | f | h'
    · exact .inl h'
    · exact .inr (.inl ⟨u, f, .inl ⟨k, rfl⟩, e⟩)
    · exact f.elim
    · exact .inr (.inr (.inr h'))
  | readPage =>
    rcases (hrp rfl hm).outcome ho with h' | ⟨u, f, e⟩ | f | h'
    · exact .inl h'
    · exact .inr (.inl ⟨u, f, .inr rfl, e⟩)
    · exact .inr (.inr (.inl ⟨f, by simp, by simp⟩))
    · exact .inr (.inr (.inr h'))
  | writePage =>
    exact (outbound ho (hwp rfl hm)).imp_right fun h' =>
      .inr (h'.imp_left fun hh => ⟨hh, by simp, by simp⟩)

/-- A predicate that every operation a command is made of keeps; `R` is what a reset leaves. -/
structure Kept (C R : State → Prop) : Prop where
  configure : ∀ u, C u → C (configure u)
  finish : ∀ u, C u → C (finish u)
  translate : ∀ u, C u → C (translate u)
  memWrite : ∀ a b u, C u → C (memWrite a b u)
  drawn : ∀ u, C u → C (drawn u)
  setData : ∀ b u, C u → C (setData b u)
  setSeq : ∀ n u, C u → C (setSeq n u)
  setIdx : ∀ n u, C u → C (setIdx n u)
  gap : ∀ u v, C u → Gaps u v → C v
  resetGap : ∀ u v, C u → Gaps u v → R (takeReset v)
  complete : ∀ e x u v, C u → Waits (clearDone u) v → C (markComplete e (deliver e x v))
  hang : ∀ e r u v, C u → Waits (clearDone u) v → C (emit (hungEventOf e) (reachIf r e v))
  accept : ∀ k x d u v, C u → Waits (requested k u) v → d < v.retryBudget.toNat →
    C (acceptByte k x d v)
  timeout : ∀ k i u v l d n, C u → Waits (requested k u) v →
    d = v.dev ∨ d = (devRead v).dev →
    C (takeBusTimeout i (ackOf k) v.retryBudget { v with late := l, dev := d, draws := n })
  resetOut : ∀ e r u v, C u → Waits (clearDone u) v → R (takeReset (reachIf r e v))
  resetIn : ∀ k r u v, C u → Waits (requested k u) v → R (takeReset (readIf r v))

/-- What every operation keeps, every command keeps, from an idle block. -/
theorem exec_keeps {i : Instr} {s t : State} {C R : State → Prop} (K : Kept C R)
    (hb : s.busy = false) (hl : C (launch i s)) (h : exec i s = .next t) : C t ∨ R t := by
  have tr : ∀ e u, C u → (transmit e u).Ends C (fun _ => False) C R := fun e u hu =>
    transmit_ends (fun x v hv => K.complete _ _ _ _ hu hv) (fun x v hv => K.hang _ _ _ _ hu hv)
      (fun x v hv => K.resetOut _ _ _ _ hu hv)
  have rc : ∀ k i u, C u → (receive k i u).Ends C C (fun _ => False) R := fun k i u hu =>
    receive_ends (fun x d v hv hd => K.accept _ _ _ _ _ hu hv hd)
      (fun v l d n hv hd => K.timeout _ _ _ _ _ _ _ hu hv hd) (fun x v hv => K.resetIn _ _ _ _ hu hv)
  have c : Carries C C C C R :=
    ⟨fun _ _ h => K.setSeq _ _ h, fun _ _ h => K.setSeq _ _ h, fun _ _ h => K.setIdx _ _ h,
      K.gap, K.gap, K.resetGap, K.resetGap, fun _ h => tr _ _ h, fun _ h => tr _ _ h, fun _ _ h => tr _ _ (K.setData _ _ h)⟩
  have cr : CarriesReads C C R :=
    ⟨fun _ _ _ h => K.memWrite _ _ _ h, fun _ _ h => K.setIdx _ _ h, K.gap, K.resetGap,
      fun _ _ _ h => rc _ _ _ h, fun _ _ _ h => K.drawn _ (K.memWrite _ _ _ h)⟩
  have hp : Begins C C R (launch i s) :=
    ⟨K.setSeq _ _ hl, K.gap, K.resetGap, fun _ hu => K.translate _ (K.setSeq _ _ (K.configure _ hu))⟩
  rcases exec_ends (C := C) (F := C) (H := C) (R := R) hb h (fun _ => K.configure _ hl)
      (fun _ _ => tr _ _ hl) (fun _ _ _ => tr _ _ hl) (fun _ _ _ => tr _ _ (K.setData _ _ hl))
      (fun _ _ _ _ => rc _ _ _ hl) (fun _ _ => readPageBody_ends c cr hp)
      (fun _ _ => writePageBody_ends c hp)
    with ⟨u, hu, rfl⟩ | ⟨u, hu, _, rfl⟩ | ⟨hu, _⟩ | hu
  · exact .inl (K.finish _ hu)
  · exact .inl (K.finish _ hu)
  · exact .inl hu
  · exact .inr hu

/-- While the block is busy a command changes nothing. -/
theorem exec_busy {i : Instr} {s t : State} (hb : s.busy = true) (h : exec i s = .next t) : t = s := by
  rw [exec_eq, issue_busy hb] at h
  cases h
  rfl

end Sys2Proof.Machine
end

