-- ==== Sys2Proof/Laws/Runs.lean ====
section
/-! SUPPORT. The primitives and the loops of the page commands where the environment's answers are
given: each as one record over the state before it, for the proofs about whole commands. -/

namespace Sys2Proof.Machine
open Sys2Proof.Safety

/-- Two states with the same fields are the same state. -/
theorem State.same {s t : State}
    (h_data : s.data = t.data) (h_pn : s.pn = t.pn) (h_ps : s.ps = t.ps) (h_buf : s.buf = t.buf)
    (h_addr : s.addr = t.addr) (h_written : s.written = t.written) (h_op : s.op = t.op) (h_seq :
    s.seq = t.seq) (h_idx : s.idx = t.idx) (h_done : s.done = t.done) (h_ackf : s.ackf = t.ackf)
    (h_result : s.result = t.result) (h_busy : s.busy = t.busy) (h_inframe : s.inframe =
    t.inframe) (h_inited : s.inited = t.inited) (h_cfgTiming : s.cfgTiming = t.cfgTiming)
    (h_retryBudget : s.retryBudget = t.retryBudget) (h_cnt : s.cnt = t.cnt) (h_trace : s.trace =
    t.trace) (h_raised : s.raised = t.raised) (h_late : s.late = t.late) (h_hostAw : s.hostAw = t.hostAw) (h_regBase : s.regBase =
    t.regBase) (h_hostMem : s.hostMem = t.hostMem) (h_hostReads : s.hostReads = t.hostReads)
    (h_dev : s.dev = t.dev) (h_inputs : s.inputs = t.inputs) (h_env : s.env = t.env) (h_draws :
    s.draws = t.draws) :
    s = t := by
  cases s
  cases t
  simp_all

/-- `INFRAME` after an outbound primitive. -/
def frameFlag : Outbound → Bool → Bool
  | .start, _ => true
  | .stop, _ => false
  | .byte _, b => b

/-- The device after it has seen an event, if it is the one that answers. -/
def Device.answers (x : Answer) (e : Outbound) (d : Device) : Device :=
  if x = .device then d.see e else d

/-- An outbound primitive of a page command whose handshake completes, as one record. -/
theorem transmit_done {e : Outbound} {s : State} {d : Nat} {x : Answer} {rest : List Happening}
    (h : s.env = .reply (.complete d x) :: rest) :
    ∃ v t, completes e v ∧ paced (transmit e) s = .ended t ∧ t = { s with
      done := true, late := false, result := .success, inframe := frameFlag e s.inframe
      trace := s.trace ++ [v], env := rest, dev := s.dev.answers x e } := by
  refine ⟨eventOf e x { clearDone s with env := rest }, _, ?_, (paced_reply h).trans (transmit_complete h), ?_⟩
  · cases e
    · rfl
    · rfl
    · exact ⟨_, rfl⟩
  · rw [deliver, reachIf_eq, reachIf_dev]
    cases e <;> simp [markComplete, emit, setDev, clearDone, Device.answers, frameFlag]

/-- An outbound primitive of a page command whose handshake never completes, as one record. -/
theorem transmit_hangs {e : Outbound} {s : State} {r : Bool} {rest : List Happening}
    (h : s.env = .reply (.never r) :: rest) :
    ∃ t, paced (transmit e) s = .hung t ∧ t = { s with
      done := false, late := false, trace := s.trace ++ [hungEventOf e], env := rest
      dev := if r then s.dev.see e else s.dev } := by
  refine ⟨_, (paced_reply h).trans (transmit_never h), ?_⟩
  rw [reachIf_eq, reachIf_dev]
  simp [emit, setDev, clearDone]

/-- Where a page command stands once it has sent a byte: the last handshake completed. -/
def Sent (s : State) : Prop :=
  s.done = true ∧ s.late = false ∧ s.result = .success ∧ s.written.data = true

theorem sendByte_done {b : Byte} {s : State} {d : Nat} {x : Answer} {rest : List Happening}
    (h : s.env = .reply (.complete d x) :: rest) :
    ∃ a t, paced (sendByte b) s = .ended t ∧ t = { s with
      done := true, late := false, result := .success, data := b
      written := { s.written with data := true }
      trace := s.trace ++ [.w b a], env := rest, dev := s.dev.answers x (.byte b) } := by
  obtain ⟨v, t, ⟨a, rfl⟩, h2, h3⟩ := transmit_done (e := .byte b) (s := setData b s) h
  rw [paced_reply (s := setData b s) h] at h2
  exact ⟨a, t, (paced_reply h).trans h2, h3⟩

/-- A byte sent where the last handshake completed. -/
theorem sendByte_sent {b : Byte} {s : State} {d : Nat} {x : Answer} {rest : List Happening}
    (hs : Sent s) (h : s.env = .reply (.complete d x) :: rest) :
    ∃ a t, paced (sendByte b) s = .ended t ∧ t = { s with
      data := b, trace := s.trace ++ [.w b a], env := rest, dev := s.dev.answers x (.byte b) } := by
  obtain ⟨a, t, e, q⟩ := sendByte_done (b := b) h
  refine ⟨a, t, e, q.trans ?_⟩
  obtain ⟨⟩ := s
  obtain ⟨rfl, rfl, rfl, h4⟩ := hs
  simp only [true_and, and_true, State.mk.injEq] at h4 ⊢
  rw [← h4]

theorem sendByte_hangs {b : Byte} {s : State} {r : Bool} {rest : List Happening}
    (h : s.env = .reply (.never r) :: rest) :
    ∃ t, paced (sendByte b) s = .hung t ∧ t = { s with
      done := false, late := false, data := b, written := { s.written with data := true }
      trace := s.trace ++ [.wHung b], env := rest
      dev := if r then s.dev.see (.byte b) else s.dev } := by
  obtain ⟨t, h1, h2⟩ := transmit_hangs (e := .byte b) (s := setData b s) h
  rw [paced_reply (s := setData b s) h] at h1
  exact ⟨t, (paced_reply h).trans h1, h2⟩

/-- The device after a run of outbound events, each answered by the device or by something else. -/
def Device.follows : List (Nat × Answer) → List Outbound → Device → Device
  | x :: xs, e :: es, d => Device.follows xs es (d.answers x.2 e)
  | _, _, d => d

theorem ofNat_succ (n : Nat) : (1 : Word) + BitVec.ofNat 16 n = BitVec.ofNat 16 (n + 1) := by
  rw [BitVec.add_comm]
  exact (BitVec.ofNat_add n 1).symm

/-- The next byte of the buffer lies one address further, until `IDX` would wrap. -/
theorem byteAddress_next {s t : State} (hb : t.buf = s.buf) (hi : t.idx = s.idx + 1)
    (h : s.idx.toNat + 1 < 65536) : byteAddress t = byteAddress s + 1 := by
  simp [byteAddress, hb, hi, BitVec.toNat_add, Nat.mod_eq_of_lt h, Nat.add_assoc]

/-- Step 3 of WRITE_PAGE on a bus that completes its bytes. -/
theorem writeBytes_done {n : Nat} {s : State} {xs : List (Nat × Answer)} {rest : List Happening}
    (hn : xs.length = n) (hs : Sent s) (hp : s.idx.toNat + n < 65536)
    (h : s.env = completions xs ++ rest) :
    ∃ t events, writeBytes n s = .ended t ∧
      sentAs ((pageAt s.hostMem (hostSize s) (byteAddress s) n).map .byte) events ∧ t = { s with
        data := (pageAt s.hostMem (hostSize s) (byteAddress s) n).getLastD s.data
        idx := s.idx + BitVec.ofNat 16 n, trace := s.trace ++ events, env := rest
        dev := Device.follows xs ((pageAt s.hostMem (hostSize s) (byteAddress s) n).map .byte) s.dev } := by
  induction n generalizing s xs with
  | zero =>
    obtain rfl := List.length_eq_zero_iff.1 hn
    refine ⟨s, [], rfl, .nil, ?_⟩
    have : s.env = rest := h
    simp [pageAt, Device.follows, ← this]
  | succ n ih =>
    obtain ⟨⟨d, x⟩, ys, rfl⟩ := List.exists_cons_of_length_eq_add_one hn
    obtain ⟨a, t, e, q⟩ := sendByte_sent (b := memRead (byteAddress s) s)
      (rest := completions ys ++ rest) hs h
    have hi : (setIdx (t.idx + 1) t).idx.toNat = s.idx.toNat + 1 := by
      rw [q]; simp [setIdx]; omega
    have hb : byteAddress (setIdx (t.idx + 1) t) = byteAddress s + 1 :=
      byteAddress_next (by rw [q]; rfl) (by rw [q]; rfl) (by omega)
    have hz : hostSize (setIdx (t.idx + 1) t) = hostSize s := by rw [q]; rfl
    obtain ⟨u, events, h2, h3, h4⟩ := ih (s := setIdx (t.idx + 1) t) (xs := ys) (by simpa using hn)
      (by rw [q]; exact hs) (by omega) (by rw [q]; rfl)
    rw [hb, hz] at h3 h4
    refine ⟨u, .w (memRead (byteAddress s) s) a :: events, ?_, .cons ⟨a, rfl⟩ ?_, ?_⟩
    · rw [writeBytes, e, Run.ended_andThen, h2]
    · rw [q] at h3
      exact h3
    · rw [h4, q, ← ofNat_succ n]
      simp [setIdx, pageAt, Device.follows, memRead, hostAddress, BitVec.add_assoc, List.getLastD_cons,
        -List.getLastD_eq_getLast?]

/-- Step 3 of WRITE_PAGE where one of its bytes never completes. -/
theorem writeBytes_hangs {n : Nat} {s : State} {xs : List (Nat × Answer)} {r : Bool}
    {rest : List Happening} (hn : xs.length < n) (hs : Sent s) (hp : s.idx.toNat + n < 65536)
    (h : s.env = completions xs ++ .reply (.never r) :: rest) :
    ∃ t events b, writeBytes n s = .hung t ∧
      sentAs (((pageAt s.hostMem (hostSize s) (byteAddress s) n).take xs.length).map .byte) events ∧
      (pageAt s.hostMem (hostSize s) (byteAddress s) n)[xs.length]? = some b ∧ t = { s with
        data := b, idx := s.idx + BitVec.ofNat 16 xs.length, done := false
        trace := s.trace ++ events ++ [.wHung b], env := rest, dev := t.dev } := by
  induction n generalizing s xs with
  | zero => exact absurd hn (Nat.not_lt_zero _)
  | succ n ih =>
    cases xs with
    | nil =>
      obtain ⟨t, e, q⟩ := sendByte_hangs (b := memRead (byteAddress s) s) (rest := rest) h
      refine ⟨t, [], memRead (byteAddress s) s, ?_, .nil, rfl, ?_⟩
      · rw [writeBytes, e, Run.hung_andThen]
      · rw [q]
        obtain ⟨⟩ := s
        obtain ⟨rfl, rfl, rfl, h4⟩ := hs
        simp only [List.append_nil, List.length_nil, BitVec.add_zero, State.mk.injEq, true_and, and_true] at h4 ⊢
        rw [← h4]
    | cons y ys =>
      obtain ⟨d, x⟩ := y
      obtain ⟨a, t, e, q⟩ := sendByte_sent (b := memRead (byteAddress s) s)
        (rest := completions ys ++ .reply (.never r) :: rest) hs h
      have hi : (setIdx (t.idx + 1) t).idx.toNat = s.idx.toNat + 1 := by
        rw [q]; simp [setIdx]; omega
      have hb : byteAddress (setIdx (t.idx + 1) t) = byteAddress s + 1 :=
        byteAddress_next (by rw [q]; rfl) (by rw [q]; rfl) (by omega)
      have hz : hostSize (setIdx (t.idx + 1) t) = hostSize s := by rw [q]; rfl
      obtain ⟨u, events, b, h2, h3, h4, h5⟩ := ih (s := setIdx (t.idx + 1) t) (xs := ys)
        (by simpa using hn) (by rw [q]; exact hs) (by omega) (by rw [q]; rfl)
      rw [hb, hz] at h3 h4
      have hm : (setIdx (t.idx + 1) t).hostMem = s.hostMem := by rw [q]; rfl
      rw [hm] at h3 h4
      refine ⟨u, .w (memRead (byteAddress s) s) a :: events, b, ?_, .cons ⟨a, rfl⟩ h3, h4, ?_⟩
      · rw [writeBytes, e, Run.ended_andThen, h2]
      · rw [h5, q, List.length_cons, ← ofNat_succ ys.length]
        simp [setIdx, memRead, BitVec.add_assoc]

/-- INIT in a page command, where a handshake's answer comes next. -/
theorem paced_init {s : State} {r : Reply} {rest : List Happening} (h : s.env = .reply r :: rest) :
    paced initialise (setSeq 1 s) = .ended (configure (setSeq 1 s)) :=
  paced_reply (s := setSeq 1 s) h

/-- Steps 1 and 2 of a page command on a bus that completes them. -/
theorem sendAddress_done {s : State} {xs : List (Nat × Answer)} {rest : List Happening}
    (hx : xs.length = 4) (h : s.env = completions xs ++ rest) :
    ∃ t events, sendAddress s = .ended t ∧
      sentAs (.start :: (addressBytes s.pn s.ps).map .byte) events ∧
      t = { s with
        data := lowByte (pageAddress s.pn s.ps), addr := pageAddress s.pn s.ps
        written := { s.written with data := true, addr := true }, seq := 2, done := true
        result := .success, inframe := true, inited := true, cfgTiming := Config.timingValue
        late := false, trace := s.trace ++ events, env := rest
        dev := s.dev.follows xs (.start :: (addressBytes s.pn s.ps).map .byte) } := by
  obtain ⟨⟨d1, x1⟩, xs, rfl⟩ := List.exists_cons_of_length_eq_add_one hx
  obtain ⟨⟨d2, x2⟩, xs, rfl⟩ := List.exists_cons_of_length_eq_add_one (by simpa using hx)
  obtain ⟨⟨d3, x3⟩, xs, rfl⟩ := List.exists_cons_of_length_eq_add_one (by simpa using hx)
  obtain ⟨⟨d4, x4⟩, xs, rfl⟩ := List.exists_cons_of_length_eq_add_one (by simpa using hx)
  obtain rfl := List.length_eq_zero_iff.1 (by simpa using hx)
  obtain ⟨v, t1, c1, e1, q1⟩ := transmit_done (e := .start)
    (s := translate (setSeq 2 (configure (setSeq 1 s)))) h
  obtain ⟨a2, t2, e2, q2⟩ := sendByte_done (b := writeIntent) (s := t1) (by rw [q1]; rfl)
  obtain ⟨a3, t3, e3, q3⟩ := sendByte_done (b := highByte t2.addr) (s := t2) (by rw [q2]; rfl)
  obtain ⟨a4, t4, e4, q4⟩ := sendByte_done (b := lowByte t3.addr) (s := t3) (by rw [q3]; rfl)
  refine ⟨t4, [v, .w writeIntent a2, .w (highByte t2.addr) a3, .w (lowByte t3.addr) a4], ?_, ?_, ?_⟩
  · rw [sendAddress, paced_init h, Run.ended_andThen, e1, Run.ended_andThen, e2, Run.ended_andThen, e3, Run.ended_andThen, e4]
  · subst q4 q3 q2 q1
    exact .cons c1 (.cons ⟨_, rfl⟩ (.cons ⟨_, rfl⟩ (.cons ⟨_, rfl⟩ .nil)))
  · subst q4 q3 q2 q1
    simp [translate, setSeq, configure, frameFlag, Device.follows, addressBytes]

/-- Steps 1 and 2 of a page command where one of their handshakes never completes. -/
theorem sendAddress_hangs {s : State} {xs : List (Nat × Answer)} {r : Bool} {rest : List Happening}
    (hx : xs.length < 4) (h : s.env = completions xs ++ .reply (.never r) :: rest) :
    ∃ t events e, sendAddress s = .hung t ∧
      sentAs ((.start :: (addressBytes s.pn s.ps).map .byte).take xs.length) events ∧
      ((.start :: (addressBytes s.pn s.ps).map .byte)[xs.length]?).map hungEventOf = some e ∧
      t = { s with
        data := t.data, addr := pageAddress s.pn s.ps
        written := { s.written with data := s.written.data || decide (0 < xs.length), addr := true }
        seq := 2, done := false, result := .success
        inframe := s.inframe || decide (0 < xs.length), inited := true
        cfgTiming := Config.timingValue, late := false, trace := s.trace ++ events ++ [e]
        env := rest, dev := t.dev } := by
  cases xs with
  | nil =>
    obtain ⟨t1, e1, q1⟩ := transmit_hangs (e := .start)
      (s := translate (setSeq 2 (configure (setSeq 1 s)))) h
    refine ⟨t1, [], .sHung, ?_, .nil, rfl, ?_⟩
    · rw [sendAddress, paced_init h, Run.ended_andThen, e1, Run.hung_andThen]
    · subst q1
      simp [translate, setSeq, configure, hungEventOf]
  | cons y xs =>
  obtain ⟨d1, x1⟩ := y
  obtain ⟨v, t1, c1, e1, q1⟩ := transmit_done (e := .start)
    (s := translate (setSeq 2 (configure (setSeq 1 s)))) h
  cases xs with
  | nil =>
    obtain ⟨t2, e2, q2⟩ := sendByte_hangs (b := writeIntent) (s := t1) (by rw [q1]; rfl)
    refine ⟨t2, [v], _, ?_, .cons c1 .nil, rfl, ?_⟩
    · rw [sendAddress, paced_init h, Run.ended_andThen, e1, Run.ended_andThen, e2, Run.hung_andThen]
    · subst q2 q1
      simp [translate, setSeq, configure, hungEventOf, frameFlag]
  | cons y xs =>
  obtain ⟨d2, x2⟩ := y
  obtain ⟨a2, t2, e2, q2⟩ := sendByte_done (b := writeIntent) (s := t1) (by rw [q1]; rfl)
  cases xs with
  | nil =>
    obtain ⟨t3, e3, q3⟩ := sendByte_hangs (b := highByte t2.addr) (s := t2) (by rw [q2]; rfl)
    refine ⟨t3, [v, .w writeIntent a2], _, ?_, .cons c1 (.cons ⟨_, rfl⟩ .nil), rfl, ?_⟩
    · rw [sendAddress, paced_init h, Run.ended_andThen, e1, Run.ended_andThen, e2, Run.ended_andThen, e3, Run.hung_andThen]
    · subst q3 q2 q1
      simp [translate, setSeq, configure, hungEventOf, frameFlag]
  | cons y xs =>
  obtain ⟨d3, x3⟩ := y
  obtain ⟨a3, t3, e3, q3⟩ := sendByte_done (b := highByte t2.addr) (s := t2) (by rw [q2]; rfl)
  obtain rfl : xs = [] := List.length_eq_zero_iff.1 (by simp at hx; omega)
  obtain ⟨t4, e4, q4⟩ := sendByte_hangs (b := lowByte t3.addr) (s := t3) (by rw [q3]; rfl)
  refine ⟨t4, [v, .w writeIntent a2, .w (highByte t2.addr) a3], .wHung (lowByte t3.addr), ?_, ?_, ?_, ?_⟩
  · rw [sendAddress, paced_init h, Run.ended_andThen, e1, Run.ended_andThen, e2, Run.ended_andThen, e3, Run.ended_andThen, e4]
  · subst q3 q2 q1
    exact .cons c1 (.cons ⟨_, rfl⟩ (.cons ⟨_, rfl⟩ .nil))
  · subst q3 q2 q1
    rfl
  · subst q4 q3 q2 q1
    simp [translate, setSeq, configure, frameFlag]

/-- READ_BYTE in a page command whose transfer completes within the budget, as one record. -/
theorem receive_done {k : AckFlag} {i : Option Word} {s : State} {d : Nat} {x : Answer}
    {rest : List Happening} (h : s.env = .reply (.complete d x) :: rest)
    (hd : d < s.retryBudget.toNat) :
    ∃ t, paced (receive k i) s = .ended t ∧ t = { s with
      data := inboundByte x s, written := { s.written with data := true }, ackf := k
      cnt := BitVec.ofNat 32 d, done := true, result := .success, late := false
      trace := s.trace ++ [.r (inboundByte x s) (ackOf k)], env := rest
      dev := (inbound x s).dev, draws := (inbound x s).draws } := by
  refine ⟨_, (paced_reply h).trans (receive_complete h hd), ?_⟩
  have hb : inboundByte x { requested k s with env := rest } = inboundByte x s := by
    cases x <;> rfl
  have hv : (inbound x { requested k s with env := rest }).dev = (inbound x s).dev := by
    cases x
    · simp [inbound, devRead_dev]
    · rfl
  have hr : (inbound x { requested k s with env := rest }).draws = (inbound x s).draws := by
    cases x
    · simp [inbound, devRead_draws, devDefines]
    · rfl
  apply State.same <;> first | exact hb | exact hv | exact hr | (rw [acceptByte_trace, hb]; rfl) | simp

/-- Two addresses of one buffer that fits the address space differ. -/
theorem hostAddress_ne {a i n size : Nat} (hi : i < n) (hn : n < size) :
    a % size ≠ (a + 1 + i) % size := by
  intro h
  have h1 := Nat.sub_mod_eq_zero_of_mod_eq h.symm
  rw [show a + 1 + i - a = i + 1 by omega, Nat.mod_eq_of_lt (by omega)] at h1
  omega

theorem ackByPosition_last {s : State} (h : s.idx.toNat + 1 = s.ps.toNat) : ackByPosition s = .term := by
  have : s.idx = s.ps - 1 := by
    have := s.ps.isLt
    apply BitVec.eq_of_toNat_eq
    rw [BitVec.toNat_sub]
    simp
    omega
  simp [ackByPosition, this]

theorem ackByPosition_cont {s : State} (h : s.idx.toNat + 1 < s.ps.toNat) : ackByPosition s = .cont := by
  have : s.idx ≠ s.ps - 1 := by
    intro h1
    have h2 := congrArg BitVec.toNat h1
    have := s.ps.isLt
    rw [BitVec.toNat_sub] at h2
    simp at h2
    omega
  rw [ackByPosition, if_pos this]

/-- Step 4 of READ_PAGE on a bus that delivers its bytes within the budget. -/
theorem readBytes_done {n : Nat} {s : State} {xs : List (Nat × Answer)} {rest : List Happening}
    (hn : xs.length = n) (hs : Sent s) (hp : s.idx.toNat + n = s.ps.toNat)
    (hz : n ≤ hostSize s) (hm : Memory.wf (hostSize s) s.hostMem = true) (hb : inBudget s.retryBudget xs)
    (h : s.env = completions xs ++ rest) :
    ∃ t bytes, readBytes n s = .ended t ∧ bytes.length = n ∧
      pageAt t.hostMem (hostSize s) (byteAddress s) n = bytes ∧ givenBytes xs bytes ∧
      (∀ a, (∀ i < n, a ≠ (byteAddress s + i) % hostSize s) →
        Memory.read t.hostMem a = Memory.read s.hostMem a) ∧
      t = { s with
        data := bytes.getLastD s.data, ackf := if n = 0 then s.ackf else .term
        cnt := (xs.getLast?.map fun x => BitVec.ofNat 32 x.1).getD s.cnt
        idx := s.idx + BitVec.ofNat 16 n, trace := s.trace ++ readEvents bytes
        hostMem := t.hostMem, env := rest, dev := t.dev, draws := t.draws } := by
  induction n generalizing s xs with
  | zero =>
    obtain rfl := List.length_eq_zero_iff.1 hn
    have : s.env = rest := h
    exact ⟨s, [], rfl, rfl, rfl, by simp [givenBytes], fun _ _ => rfl, by simp [readEvents, ← this]⟩
  | succ n ih =>
    obtain ⟨⟨d, x⟩, ys, rfl⟩ := List.exists_cons_of_length_eq_add_one hn
    obtain ⟨t, e, q⟩ := receive_done (k := ackByPosition s) (i := some s.idx)
      (rest := completions ys ++ rest) h (hb _ (List.mem_cons_self ..))
    have hba : byteAddress t = byteAddress s := by rw [q]; rfl
    have hsz : hostSize t = hostSize s := by rw [q]; rfl
    have hmem : (memWrite (byteAddress t) t.data t).hostMem =
        (memWrite (byteAddress s) (inboundByte x s) s).hostMem := by rw [hba, q]; rfl
    obtain ⟨u, bytes, h2, h3, h4, h5, h6, h7⟩ := ih
      (s := setIdx (t.idx + 1) (memWrite (byteAddress t) t.data t)) (xs := ys) (by simpa using hn)
      (by rw [q]; exact ⟨rfl, rfl, rfl, rfl⟩)
      (by rw [q]; simp [setIdx, memWrite]; have := s.ps.isLt; omega)
      (by have : hostSize (setIdx (t.idx + 1) (memWrite (byteAddress t) t.data t)) = hostSize s := hsz
          rw [this]; omega)
      (by have : hostSize (setIdx (t.idx + 1) (memWrite (byteAddress t) t.data t)) = hostSize s := hsz
          rw [this, setIdx_hostMem, hmem]; exact memWrite_wf _ _ hm)
      (by rw [q]; exact fun y hy => hb y (List.mem_cons_of_mem _ hy)) (by rw [q]; rfl)
    have hb' : byteAddress (setIdx (t.idx + 1) (memWrite (byteAddress t) t.data t))
        = byteAddress s + 1 := byteAddress_next (by rw [q]; rfl) (by rw [q]; rfl)
          (by have := s.ps.isLt; omega)
    have hsz' : hostSize (setIdx (t.idx + 1) (memWrite (byteAddress t) t.data t)) = hostSize s := hsz
    rw [hb', hsz'] at h4 h6
    rw [setIdx_hostMem, hmem] at h6
    have hfirst : Memory.read u.hostMem (byteAddress s % hostSize s) = inboundByte x s := by
      rw [h6 _ (fun i hi => hostAddress_ne hi (by omega)), memWrite_read _ _ _ hm, if_pos rfl]
    refine ⟨u, inboundByte x s :: bytes, ?_, by simp [h3], ?_, ?_, ?_, ?_⟩
    · rw [readBytes, e, abortRead, Run.ended_andThen, h2]
    · rw [pageAt, hfirst, h4]
    · intro i d' b a hi
      cases i with
      | zero => simp at hi; simp [hi.2, inboundByte]
      | succ i => exact h5 i d' b a hi
    · intro a ha
      rw [h6, memWrite_read _ _ _ hm, if_neg]
      · simpa using ha 0 (Nat.succ_pos _)
      · intro i hi
        have := ha (i + 1) (Nat.succ_lt_succ hi)
        rwa [← Nat.add_assoc, Nat.add_right_comm] at this
    · refine h7.trans ?_
      obtain ⟨s1, s2, s3, s4⟩ := hs
      cases n with
      | zero =>
        obtain rfl := List.length_eq_zero_iff.1 (show ys.length = 0 by simpa using hn)
        obtain rfl := List.length_eq_zero_iff.1 h3
        have hk : ackByPosition s = .term := ackByPosition_last (by omega)
        rw [q, hk]
        simp [setIdx, memWrite, readEvents, ackOf, s1, s2, s3, ← s4]
      | succ n =>
        obtain ⟨b, bs, rfl⟩ := List.exists_cons_of_length_eq_add_one h3
        have hk : ackByPosition s = .cont := ackByPosition_cont (by omega)
        obtain ⟨y, ys, rfl⟩ := List.exists_cons_of_length_eq_add_one (show ys.length = n + 1 by simpa using hn)
        rw [q, hk, ← ofNat_succ (n + 1)]
        simp [setIdx, memWrite, readEvents, ackOf, s1, s2, s3, ← s4, BitVec.add_assoc,
          List.getLast?_cons]

/-- The first bytes of READ_PAGE, short of the last one, on a bus that delivers them within the budget:
each is acknowledged and stored, and the loop goes on behind them. -/
theorem readBytes_onward {n : Nat} {s : State} {xs : List (Nat × Answer)} {rest : List Happening}
    (hs : Sent s) (hp : s.idx.toNat + xs.length < s.ps.toNat)
    (hz : xs.length ≤ hostSize s) (hm : Memory.wf (hostSize s) s.hostMem = true) (hb : inBudget s.retryBudget xs)
    (h : s.env = completions xs ++ rest) :
    ∃ t bytes, readBytes (xs.length + n) s = readBytes n t ∧ bytes.length = xs.length ∧
      pageAt t.hostMem (hostSize s) (byteAddress s) xs.length = bytes ∧ givenBytes xs bytes ∧
      (∀ a, (∀ i < xs.length, a ≠ (byteAddress s + i) % hostSize s) →
        Memory.read t.hostMem a = Memory.read s.hostMem a) ∧ Memory.wf (hostSize s) t.hostMem = true ∧
      t = { s with
        data := bytes.getLastD s.data, ackf := if xs = [] then s.ackf else .cont
        cnt := (xs.getLast?.map fun x => BitVec.ofNat 32 x.1).getD s.cnt
        idx := s.idx + BitVec.ofNat 16 xs.length
        trace := s.trace ++ bytes.map fun b => .r b .ack
        hostMem := t.hostMem, env := rest, dev := t.dev, draws := t.draws } := by
  induction xs generalizing s with
  | nil =>
    have : s.env = rest := h
    exact ⟨s, [], by simp, rfl, rfl, by simp [givenBytes], fun _ _ => rfl, hm, by simp [← this]⟩
  | cons y ys ih =>
    obtain ⟨d, x⟩ := y
    rw [List.length_cons] at hp
    obtain ⟨t, e, q⟩ := receive_done (k := ackByPosition s) (i := some s.idx)
      (rest := completions ys ++ rest) h (hb _ (List.mem_cons_self ..))
    have hba : byteAddress t = byteAddress s := by rw [q]; rfl
    have hsz : hostSize t = hostSize s := by rw [q]; rfl
    have hmem : (memWrite (byteAddress t) t.data t).hostMem =
        (memWrite (byteAddress s) (inboundByte x s) s).hostMem := by rw [hba, q]; rfl
    obtain ⟨u, bytes, h2, h3, h4, h5, h6, hwf, h7⟩ := ih
      (s := setIdx (t.idx + 1) (memWrite (byteAddress t) t.data t))
      (by rw [q]; exact ⟨rfl, rfl, rfl, rfl⟩)
      (by rw [q]; simp [setIdx, memWrite]; have := s.ps.isLt; omega)
      (by have : hostSize (setIdx (t.idx + 1) (memWrite (byteAddress t) t.data t)) = hostSize s := hsz
          rw [this]; simp at hz; omega)
      (by have : hostSize (setIdx (t.idx + 1) (memWrite (byteAddress t) t.data t)) = hostSize s := hsz
          rw [this, setIdx_hostMem, hmem]; exact memWrite_wf _ _ hm)
      (by rw [q]; exact fun y hy => hb y (List.mem_cons_of_mem _ hy)) (by rw [q]; rfl)
    have hb' : byteAddress (setIdx (t.idx + 1) (memWrite (byteAddress t) t.data t))
        = byteAddress s + 1 := byteAddress_next (by rw [q]; rfl) (by rw [q]; rfl)
          (by have := s.ps.isLt; omega)
    have hsz' : hostSize (setIdx (t.idx + 1) (memWrite (byteAddress t) t.data t)) = hostSize s := hsz
    rw [hb', hsz'] at h4 h6
    rw [setIdx_hostMem, hmem] at h6
    rw [hsz'] at hwf
    have hfirst : Memory.read u.hostMem (byteAddress s % hostSize s) = inboundByte x s := by
      rw [h6 _ (fun i hi => hostAddress_ne hi (by simpa using hz)), memWrite_read _ _ _ hm, if_pos rfl]
    refine ⟨u, inboundByte x s :: bytes, ?_, by simp [h3], ?_, ?_, ?_, hwf, ?_⟩
    · rw [show (((d, x) :: ys).length + n) = (ys.length + n) + 1 by simp; omega, readBytes, e,
        abortRead, Run.ended_andThen, h2]
    · rw [List.length_cons, pageAt, hfirst, h4]
    · intro i d' b a hi
      cases i with
      | zero => simp at hi; simp [hi.2, inboundByte]
      | succ i => exact h5 i d' b a hi
    · intro a ha
      rw [h6, memWrite_read _ _ _ hm, if_neg]
      · simpa using ha 0 (Nat.succ_pos _)
      · intro i hi
        have := ha (i + 1) (Nat.succ_lt_succ hi)
        rwa [← Nat.add_assoc, Nat.add_right_comm] at this
    · refine h7.trans ?_
      obtain ⟨s1, s2, s3, s4⟩ := hs
      have hk : ackByPosition s = .cont := ackByPosition_cont (by omega)
      rw [q, hk, List.length_cons, ← ofNat_succ ys.length]
      simp [setIdx, memWrite, ackOf, s1, s2, s3, ← s4, BitVec.add_assoc, List.getLast?_cons]
      cases ys.getLast? <;> rfl

/-- What `scribble` writes lies in its range. -/
theorem scribble_mem {n : Nat} {a : Nat} {s : State} (hm : Memory.wf (hostSize s) s.hostMem = true) :
    Memory.wf (hostSize s) (scribble n a s).hostMem = true ∧
      ∀ c, (∀ i < n, c ≠ (a + i) % hostSize s) →
        Memory.read (scribble n a s).hostMem c = Memory.read s.hostMem c := by
  induction n generalizing a s with
  | zero => exact ⟨hm, fun _ _ => rfl⟩
  | succ n ih =>
    obtain ⟨h1, h2⟩ := ih (a := a + 1) (s := drawn (memWrite a (anyByte s) s)) (memWrite_wf _ _ hm)
    refine ⟨h1, fun c hc => ?_⟩
    rw [scribble, h2, drawn_hostMem, memWrite_read _ _ _ hm, if_neg]
    · simpa using hc 0 (Nat.succ_pos _)
    · intro i hi
      have := hc (i + 1) (Nat.succ_lt_succ hi)
      rwa [← Nat.add_assoc, Nat.add_right_comm] at this

theorem completions_append (xs ys : List (Nat × Answer)) :
    completions (xs ++ ys) = completions xs ++ completions ys := List.map_append

theorem pageAt_length (m : Memory) (z a : Nat) (n : Nat) : (pageAt m z a n).length = n := by
  induction n generalizing a with
  | zero => rfl
  | succ n ih => rw [pageAt, List.length_cons, ih]

theorem Device.follows_append {xs ys : List (Nat × Answer)} {es fs : List Outbound} (d : Device)
    (h : xs.length = es.length) :
    d.follows (xs ++ ys) (es ++ fs) = (d.follows xs es).follows ys fs := by
  induction xs generalizing es d with
  | nil =>
    obtain rfl := List.length_eq_zero_iff.1 h.symm
    cases ys <;> cases fs <;> rfl
  | cons x xs ih =>
    obtain ⟨e, es, rfl⟩ := List.exists_cons_of_length_eq_add_one h.symm
    exact ih _ (by simpa using h)

/-- READ_PAGE up to its first inbound byte on a bus that completes the seven handshakes before it. -/
theorem readPageBody_begins {s : State} {setup : List (Nat × Answer)} {rest : List Happening}
    (hl : setup.length = 7) (h : s.env = completions setup ++ rest) :
    ∃ t events, readPageBody s =
        ((readBytes s.ps.toNat t).andThen fun x => paced (transmit .stop) (setSeq 5 x)) ∧
      sentAs (readPageSends s) events ∧ t = { s with
        data := readIntent, addr := pageAddress s.pn s.ps
        written := { s.written with data := true, addr := true }, seq := 4, idx := 0, done := true
        result := .success, inframe := true, inited := true, cfgTiming := Config.timingValue
        late := false, trace := s.trace ++ events, env := rest
        dev := s.dev.follows setup (readPageSends s) } := by
  obtain ⟨xs, ys, rfl, hx⟩ : ∃ xs ys, setup = xs ++ ys ∧ xs.length = 4 :=
    ⟨setup.take 4, setup.drop 4, by simp, by simp [hl]⟩
  have hy : ys.length = 3 := by simp at hl; omega
  obtain ⟨⟨d1, x1⟩, ys, rfl⟩ := List.exists_cons_of_length_eq_add_one hy
  obtain ⟨⟨d2, x2⟩, ys, rfl⟩ := List.exists_cons_of_length_eq_add_one (by simpa using hy)
  obtain ⟨⟨d3, x3⟩, ys, rfl⟩ := List.exists_cons_of_length_eq_add_one (by simpa using hy)
  obtain rfl := List.length_eq_zero_iff.1 (show ys.length = 0 by simpa using hy)
  rw [completions_append, List.append_assoc] at h
  obtain ⟨t, events, e, c, q⟩ := sendAddress_done hx h
  obtain ⟨v1, t1, c1, e1, q1⟩ := transmit_done (e := .stop) (s := t) (by rw [q]; rfl)
  obtain ⟨v2, t2, c2, e2, q2⟩ := transmit_done (e := .start) (s := setSeq 3 t1) (by rw [q1]; rfl)
  obtain ⟨a3, t3, e3, q3⟩ := sendByte_done (b := readIntent) (s := t2) (by rw [q2]; rfl)
  have hps : t3.ps.toNat = s.ps.toNat := by rw [q3, q2, q1, q]; rfl
  refine ⟨setIdx 0 (setSeq 4 t3), events ++ [v1, v2, .w readIntent a3], ?_, ?_, ?_⟩
  · rw [readPageBody, e, Run.ended_andThen, e1, Run.ended_andThen, e2, Run.ended_andThen, e3,
      Run.ended_andThen, hps]
  · exact List.rel_append c (.cons c1 (.cons c2 (.cons ⟨_, rfl⟩ .nil)))
  · rw [q3, q2, q1, q, show readPageSends s = (.start :: (addressBytes s.pn s.ps).map .byte) ++
      [.stop, .start, .byte readIntent] from rfl, Device.follows_append _ (by rw [hx]; rfl)]
    simp [setIdx, setSeq, frameFlag, Device.follows]

end Sys2Proof.Machine
end

