-- ==== Sys2Proof/Tests/Slice0.lean ====
section
/-! SUPPORT. Tests of the model's own: command bytes written out from the encoding table, the
WellFormed smoke, vectors of 95_test_vectors.md on small states, and for every obligation with
hypotheses a state and operands that meet all of them together. -/

namespace Sys2Proof.Tests

open Sys2Proof.Machine Sys2Proof.Safety

/-! ## Command bytes, from 30_encoding.md rule R59: bits 7:5 zero, bit 4 `a`, bits 3:0 `op` -/

theorem test_decode_init : decode 0b00000001 = .ok .init := by decide
theorem test_decode_start : decode 0b00000010 = .ok .start := by decide
theorem test_decode_stop : decode 0b00000011 = .ok .stop := by decide
theorem test_decode_write_byte : decode 0b00000100 = .ok .writeByte := by decide
theorem test_decode_read_byte_last : decode 0b00000101 = .ok (.readByte .term) := by decide
theorem test_decode_read_byte_more : decode 0b00010101 = .ok (.readByte .cont) := by decide
theorem test_decode_read_page : decode 0b00001000 = .ok .readPage := by decide
theorem test_decode_write_page : decode 0b00001001 = .ok .writePage := by decide

/-- Vectors E9 to E12. -/
theorem test_decode_reserved :
    [0x00, 0x06, 0x07, 0x0A, 0x0F].map decode = List.replicate 5 (.error .opcode) ∧
    [0x11, 0x14, 0x18, 0x19].map decode = List.replicate 4 (.error .ackBit) ∧
    [0x21, 0x85, 0xFF].map decode = List.replicate 3 (.error .zeroField) := by decide

/-! ## WellFormed smoke. No term of `Instr` is ill formed; the ill-formed accesses are vector H8's. -/

theorem test_wellFormed_commands :
    [Instr.init, .start, .stop, .writeByte, .readByte .term, .readByte .cont, .readPage,
      .writePage].all Instr.wellFormed = true := by decide
theorem test_illFormed_accesses :
    ([.rd 8 0x04, .rd 16 0x05, .rd 8 0x11, .rd 8 0x1F, .wr 16 0x00 1, .wr 32 0x0D 1] : List Access).all
      (fun a => !a.wellFormed 16) = true ∧
    Access.wellFormed 16 (.rd 16 0x08) = true ∧ Access.wellFormed 12 (.rd 16 0x08) = false ∧
    Access.wellFormed 12 (.rd 12 0x08) = true := by decide

/-! ## Small states -/

/-- After INIT. -/
def inited : State := { State.reset with inited := true, cfgTiming := Config.timingValue }

/-- After INIT and START, `DATA` written. -/
def framed (env : List Happening) : State :=
  { inited with
    inframe := true, trace := [.s], data := 0x10, written := { Written.none with data := true }, env := env }

/-- Page 3 of `n` bytes, buffer at 0x0100 holding 5, 7, 9, device bytes at 3, 4, 6, 7. -/
def paged (n : Word) (env : List Happening) : State :=
  { State.reset with
    pn := 3, ps := n, buf := 0x0100
    written := { Written.none with pn := true, ps := true, buf := true }
    hostMem := [(0x100, 5), (0x101, 7), (0x102, 9)]
    dev := { Device.atReset with mem := [(3, 11), (4, 12), (6, 33), (7, 34)] }, env := env }

/-- `n` handshakes that the reference device answers after two polls. -/
def fine (n : Nat) : List (Nat × Answer) := List.replicate n (2, .device)

/-- A hung WRITE_BYTE. -/
def hung : State :=
  { framed [] with busy := true, op := some 0b0100, trace := [.s, .wHung 0x10] }

/-- A fact about the next state; false where there is none. -/
def after (x : Host.Outcome State Fault Refusal) (p : State → Bool) : Bool :=
  match x with
  | .next t => p t
  | .fault _ | .refused _ => false

/-! ## Vectors -/

/-- Vectors T2, T13, T17, T22 and T10. -/
theorem test_translator :
    [pageAddress 3 128, pageAddress 513 128, pageAddress 656 100, pageAddress 65535 65535,
      pageAddress 256 256] = [0x0180, 0x0080, 0x0040, 0x0001, 0x0000] := by decide

/-- Vector V1. -/
theorem test_init : exec .init State.reset = .next inited := rfl

/-- Vector V3. -/
theorem test_init_in_frame :
    exec .init { framed [] with result := .failure } = .next (framed []) := rfl

/-- Vector V7: a start inside the open frame. -/
theorem test_start_again :
    after (exec .start (framed [.reply (.complete 0 .device)])) (fun t =>
      t.done && t.inframe && decide (t.trace = [.s, .s]) && !t.busy) = true := by decide

/-- Vector V6. -/
theorem test_start_hangs :
    after (exec .start { inited with env := [.reply (.never false)] }) (fun t =>
      !t.done && !t.inframe && t.busy && decide (t.op = some 0b0010) &&
        decide (t.trace = [.sHung])) = true := by decide

/-- Vector V11. -/
theorem test_stop_clears_failure :
    after (exec .stop { framed [.reply (.complete 0 .device)] with result := .failure }) (fun t =>
      decide (t.result = .success) && !t.inframe && decide (t.trace = [.s, .p])) = true := by decide

/-- Vector V8. -/
theorem test_stop_without_frame :
    (match exec .stop inited with | .refused r => decide (r = .noFrame) | _ => false) = true := by
  decide

/-- Vector V16: another device's address is sent as it is, and answered NAK. -/
theorem test_write_other_device :
    after (exec .writeByte { framed [.reply (.complete 0 .device)] with
        data := 0xA2, dev := { Device.atReset with ph := .sla } }) (fun t =>
      decide (t.trace = [.s, .w 0xA2 .nak]) && decide (t.data = 0xA2) &&
        decide (t.result = .success) && decide (t.dev.ph = .deaf)) = true := by decide

/-- Vector V17. -/
theorem test_write_hangs :
    after (exec .writeByte (framed [.reply (.never true)])) (fun t =>
      decide (t.trace = [.s, .wHung 0x10]) && t.busy && decide (statusByte t = 0x19)) = true := by
  decide

/-- Vector V22. -/
theorem test_read_last :
    after (exec (.readByte .term) (framed [.reply (.complete 3 (.other 0x5A .ack))])) (fun t =>
      decide (t.ackf = .term) && decide (t.data = 0x5A) && decide (t.cnt = 3) && t.done &&
        decide (t.trace = [.s, .r 0x5A .nak])) = true := by decide

/-- Vector V24: one poll too many. -/
theorem test_read_times_out :
    after (exec (.readByte .cont) (framed [.reply (.complete 100000 (.other 0xFF .ack))])) (fun t =>
      decide (t.result = .failure) && decide (t.cnt = 100000) && !t.done && t.inframe && !t.busy &&
        decide (t.trace = [.s, .rf .ack])) = true := by decide

/-- Vectors V37 and S1's address order, on page 3 of two bytes: bus history and buffer. -/
theorem test_read_page :
    after (exec .readPage (paged 2 (completions (fine 10)))) (fun t =>
      decide (t.trace = [.s, .w 0xA0 .ack, .w 0x00 .ack, .w 0x06 .ack, .p, .s, .w 0xA1 .ack,
        .r 33 .ack, .r 34 .nak, .p]) &&
      decide (t.hostMem = [(0x100, 33), (0x101, 34), (0x102, 9)]) && decide (statusByte t = 0x12)) =
    true := by decide

/-- Property S7's shape on three bytes: the second never comes. -/
theorem test_read_page_fails :
    after (exec .readPage (paged 3 (completions (fine 8) ++ [.reply (.never false)]))) (fun t =>
      decide (t.result = .failure) && t.inframe && decide (t.idx = 1) &&
        decide (t.trace.getLast? = some (.rf .ack)) &&
        decide (t.raised = [.busTimeout (some 1)])) = true := by decide

/-- The write frame of page 3 of two bytes. -/
theorem test_write_page :
    after (exec .writePage (paged 2 (completions (fine 7)))) (fun t =>
      decide (t.trace = [.s, .w 0xA0 .ack, .w 0x00 .ack, .w 0x06 .ack, .w 5 .ack, .w 7 .ack, .p]) &&
      decide (t.dev.mem = [(3, 11), (4, 12), (6, 5), (7, 7)]) && decide (t.dev.ptr = 8)) = true := by
  decide

/-- An absent device: the frame is sent all the same, and RESULT is Success (60_exceptions.md rule R109). -/
theorem test_write_page_nobody :
    after (exec .writePage { paged 1 (completions (fine 6)) with
        dev := { Device.atReset with powered := false } }) (fun t =>
      decide (t.trace = [.s, .w 0xA0 .nak, .w 0x00 .nak, .w 0x03 .nak, .w 5 .nak, .p]) &&
      decide (t.result = .success) && decide (t.dev.mem = [])) = true := by decide

/-- Vectors H1 and H5: of the registers, only the ones with a value are read from reset. -/
theorem test_first_reads :
    after (step { State.reset with inputs := [.access (.rd 8 0x01)] }) (fun t =>
      decide (t.hostReads = [0])) = true ∧
    (match step { State.reset with inputs := [.access (.rd 8 0x02)] } with
      | .refused r => decide (r = .noValue .data) | _ => false) = true := by decide

/-- The command the host places is the very next step's. -/
theorem test_fetch : step (State.reset.withFetchWord 8 0x01) = exec .init State.reset := rfl

/-! ## States and operands that meet the hypotheses of the obligations -/

theorem test_meets_ReservedBytesAreRefused :
    ∀ b ∈ ([0x00, 0x06, 0x0A, 0x14, 0x16, 0x1F, 0x20, 0xFF] : List Byte),
      State.reset.busy = false ∧ ({ State.reset with inputs := [.access (.wr 8 0x00 b)] } : State).inputs =
        .access (.wr 8 0x00 b) :: [] ∧
      b ∉ ([0x01, 0x02, 0x03, 0x04, 0x05, 0x15, 0x08, 0x09] : List Byte) := by decide

theorem test_meets_StepRunsTheDecodedCommand :
    (State.reset.withFetchWord 8 0x15).busy = false ∧
    (State.reset.withFetchWord 8 0x15).inputs = .access (.wr 8 0x00 0x15) :: [] ∧
    decode 0x15 = .ok (.readByte .cont) ∧ (Instr.readByte .cont).wellFormed = true := by decide

/-- One access for each clause, the read clauses at the offsets on either side of `STATUS`. -/
theorem test_meets_AccessesWhileBusy :
    ∀ a ∈ ([.wr 8 0x00 0x01, .wr 16 0x04 1, .wr 32 0x0C 1, .rd 8 0x01, .rd 8 0x00, .rd 8 0x02, .rd 16 0x04,
        .rd 32 0x0C] : List Access),
      ({ hung with inputs := [.access a] } : State).busy = true ∧
      ({ hung with inputs := [.access a] } : State).inputs = .access a :: [] := by decide

theorem test_meets_NoCommandStartsWhileBusy : hung.busy = true := by decide

/-- Every readable register, in a state where all hold a value. -/
theorem test_meets_IdleReadsGiveTheRegisters :
    let s : State := { inited with written := { data := true, pn := true, ps := true, buf := true, addr := true } }
    s.busy = false ∧ s.inited = true ∧ s.written.data = true ∧ s.written.pn = true ∧
    s.written.ps = true ∧ s.written.buf = true ∧ s.written.addr = true ∧
    ∀ a ∈ ([.rd 8 0x00, .rd 8 0x01, .rd 8 0x02, .rd 8 0x03, .rd 16 0x04, .rd 16 0x06, .rd 16 0x08, .rd 16 0x0A,
        .rd 32 0x0C, .rd 8 0x10] : List Access),
      ({ s with inputs := [.access a] } : State).inputs = .access a :: [] := by decide

theorem test_meets_IdleWritesReachTheOperands :
    State.reset.busy = false ∧
    ∀ a ∈ ([.wr 8 0x02 0xFF, .wr 16 0x04 0xFFFF, .wr 16 0x06 0, .wr 16 0x08 1, .wr 8 0x01 1, .wr 8 0x03 1,
        .wr 8 0x10 1, .wr 16 0x0A 1, .wr 32 0x0C 1] : List Access),
      ({ State.reset with inputs := [.access a] } : State).inputs = .access a :: [] := by decide

theorem test_meets_IllFormedAccessesAreRefused :
    State.reset.busy = false ∧ Access.wellFormed State.reset.hostAw (.rd 8 0x04) = false ∧
    Access.wellFormed State.reset.hostAw (.wr 8 0x11 0) = false ∧
    ({ State.reset with inputs := [.access (.rd 8 0x04)] } : State).inputs = .access (.rd 8 0x04) :: [] := by
  decide

theorem test_meets_RegistersWithoutValueRefuse :
    State.reset.busy = false ∧ State.reset.inited = false ∧ State.reset.written = Written.none ∧
    (∀ a ∈ ([.rd 8 0x02, .rd 16 0x04, .rd 16 0x06, .rd 16 0x08, .rd 16 0x0A, .rd 8 0x10] : List Access),
      ({ State.reset with inputs := [.access a] } : State).inputs = .access a :: []) ∧
    (let s : State := { framed [] with written := Written.none }
     s.busy = false ∧ s.written.data = false ∧ s.inited = true ∧ s.inframe = true) ∧
    (let s : State := { paged 2 [] with written := { Written.none with pn := true, ps := true } }
     s.busy = false ∧ s.written.buf = false) := by decide

theorem test_meets_ResetInputTakesEffectAtOnce :
    ({ hung with inputs := [.reset] } : State).inputs = .reset :: [] := by decide

/-- Host accesses before INIT, and between INIT and START. -/
def pollingStart : List Happening :=
  [interlude readStatus, .between .go, interlude readStatus, interlude (.wr 8 0x00 1)]

/-- Every command; in a wait and between two primitives, behind host accesses or none; in the page
commands between INIT and START, and at the first, a middle and the last handshake. -/
theorem test_meets_ResetAbandonsTheCommand :
    ∀ x ∈ ([.between .reset, .reply (.reset true)] : List Happening),
      (x = .between .reset ∨ x = .reply (.reset true)) ∧
      (∀ polls ∈ [[], [Happening.access readStatus]],
        (∀ i ∈ ([.start, .stop, .writeByte, .readByte .cont] : List Instr),
          let s := framed (polls ++ x :: [])
          s.busy = false ∧ missing i s = none ∧ s.env = polls ++ x :: []) ∧
        (∀ h ∈ polls, harmless h = true) ∧ polls.filter isReply = completions []) ∧
      (∀ k ∈ [0, 4, 6], ∀ start ∈ [[], pollingStart],
        let s := paged 2 ((start ++ completions (fine k)) ++ x :: [])
        s.busy = false ∧ needPage s = none ∧ (fine k).length < s.ps.toNat + 5 ∧ (fine k).length < 7 ∧
        (∀ h ∈ start ++ completions (fine k), harmless h = true) ∧
        (start ++ completions (fine k)).filter isReply = completions (fine k) ∧
        s.env = (start ++ completions (fine k)) ++ x :: []) ∧
      (∀ n ∈ [0, 1, 3],
        let pre := pollingStart ++ completions (fine 7 ++ fine n)
        let s := paged 3 (pre ++ x :: [])
        s.busy = false ∧ needPage s = none ∧ hostWf s = true ∧ (fine 7).length = 7 ∧
        (fine n).length ≤ s.ps.toNat ∧ (∀ y ∈ fine n, y.1 < s.retryBudget.toNat) ∧
        (∀ h ∈ pre, harmless h = true) ∧ pre.filter isReply = completions (fine 7 ++ fine n) ∧
        s.env = pre ++ x :: []) := by decide

/-- A reset between INIT and START, behind a read of `STATUS`. -/
theorem test_reset_before_start :
    after (exec .readPage (paged 1 (pollingStart ++ [.between .reset, .access readStatus]))) (fun t =>
      !t.busy && !t.inited && decide (t.env = [.access readStatus]) &&
        decide (t.hostReads = [0x01, 0x11])) = true := by decide

theorem test_meets_InitConfiguresTheTiming :
    (State.reset.busy = false ∧ State.reset.inited = false ∧
      exec .init State.reset = .next inited) ∧
    ((framed []).busy = false ∧ (framed []).inframe = true) := ⟨⟨rfl, rfl, rfl⟩, rfl, rfl⟩

theorem test_meets_InitTwiceIsInitOnce :
    State.reset.busy = false ∧ exec .init State.reset = .next inited := ⟨rfl, rfl⟩

/-- Before INIT; completing outside a frame and inside one; hanging. -/
theorem test_meets_StartFollowsItsRule :
    let s : State := { inited with env := [.reply (.complete 0 .device)] }
    let t := framed [.reply (.complete 7 (.other 0 .nak))]
    let u := framed [.reply (.never true)]
    (State.reset.busy = false ∧ State.reset.inited = false) ∧
    (s.busy = false ∧ s.inited = true ∧ s.env = .reply (.complete 0 .device) :: []) ∧
    (t.busy = false ∧ t.inited = true ∧ t.env = .reply (.complete 7 (.other 0 .nak)) :: []) ∧
    (u.busy = false ∧ u.inited = true ∧ u.env = .reply (.never true) :: []) := by decide

/-- Before INIT; outside a frame; completing; hanging. -/
theorem test_meets_StopFollowsItsRule :
    let s := framed [.reply (.complete 0 .device)]
    let u := framed [.reply (.never false)]
    (State.reset.busy = false ∧ State.reset.inited = false) ∧
    (inited.busy = false ∧ inited.inited = true ∧ inited.inframe = false) ∧
    (s.busy = false ∧ s.inited = true ∧ s.inframe = true ∧
      s.env = .reply (.complete 0 .device) :: []) ∧
    (u.busy = false ∧ u.inited = true ∧ u.inframe = true ∧ u.env = .reply (.never false) :: []) := by
  decide

/-- Before INIT; outside a frame; completing; hanging. -/
theorem test_meets_WriteByteFollowsItsRule :
    let s := framed [.reply (.complete 0 (.other 0 .nak))]
    let u := framed [.reply (.never true)]
    (State.reset.busy = false ∧ State.reset.inited = false) ∧
    (inited.busy = false ∧ inited.inited = true ∧ inited.inframe = false) ∧
    (s.busy = false ∧ s.inited = true ∧ s.inframe = true ∧ s.written.data = true ∧
      s.env = .reply (.complete 0 (.other 0 .nak)) :: []) ∧
    (u.busy = false ∧ u.inited = true ∧ u.inframe = true ∧ u.written.data = true ∧
      u.env = .reply (.never true) :: []) := by decide

/-- Vectors V23 to V26: before INIT; outside a frame; the last poll that the budget permits; one poll too
many, never, and a zero budget. -/
theorem test_meets_ReadByteFollowsItsRule :
    let r := framed [.reply (.complete 99999 (.other 0xFF .ack))]
    let s := framed [.reply (.complete 100000 .device)]
    let t := framed [.reply (.never false)]
    let u : State := { framed [.reply (.complete 0 .device)] with retryBudget := 0 }
    (State.reset.busy = false ∧ State.reset.inited = false) ∧
    (inited.busy = false ∧ inited.inited = true ∧ inited.inframe = false) ∧
    (r.busy = false ∧ r.inited = true ∧ r.inframe = true ∧
      r.env = .reply (.complete 99999 (.other 0xFF .ack)) :: [] ∧ 99999 < r.retryBudget.toNat) ∧
    (s.busy = false ∧ s.inited = true ∧ s.inframe = true ∧ s.env = .reply (.complete 100000 .device) :: [] ∧
      timesOut s.retryBudget (.complete 100000 .device)) ∧
    (t.busy = false ∧ t.inited = true ∧ t.inframe = true ∧ t.env = .reply (.never false) :: [] ∧
      timesOut t.retryBudget (.never false)) ∧
    (u.busy = false ∧ u.inited = true ∧ u.inframe = true ∧ u.env = .reply (.complete 0 .device) :: [] ∧
      timesOut u.retryBudget (.complete 0 .device)) := by
  simp only [timesOut]
  decide

theorem test_meets_PrimitivesOutOfOrderAreRefused :
    (State.reset.busy = false ∧ State.reset.inited = false) ∧
    (inited.busy = false ∧ inited.inited = true ∧ inited.inframe = false) := by decide

theorem test_meets_PageAddressesAreAligned :
    (128 : Word).toNat ∣ 65536 ∧ (1 : Word).toNat ∣ 65536 ∧ (0x8000 : Word).toNat ∣ 65536 := by decide

theorem test_meets_PagePreconditionsAreRefused :
    let s := paged 0 []
    s.busy = false ∧ s.written.pn = true ∧ s.written.ps = true ∧ s.written.buf = true ∧ s.ps = 0 := by
  decide

/-- A buffer of this many bytes from this address on. -/
def buffered (a : Nat) (n : Word) : State := { paged n [] with buf := a }

/-- One byte at either end of the register file, two that wrap into it, and the nearest that do not
overlap. -/
theorem test_meets_PagePreconditionsAreRefused_overlap :
    ((buffered 0x0000 1).ps ≠ 0 ∧ bufferOverlaps (buffered 0x0000 1) = true) ∧
    ((buffered 0x0010 1).ps ≠ 0 ∧ bufferOverlaps (buffered 0x0010 1) = true) ∧
    ((buffered 0xFFFF 2).ps ≠ 0 ∧ bufferOverlaps (buffered 0xFFFF 2) = true) ∧
    bufferOverlaps (buffered 0x0011 1) = false ∧ bufferOverlaps (buffered 0xFFFF 1) = false := by
  refine ⟨⟨?_, ?_⟩, ⟨?_, ?_⟩, ⟨?_, ?_⟩, ?_, ?_⟩ <;> decide

/-- `HOST_AW` is the instance's: with 12 bits a buffer at 0xFFF wraps into the registers, with 20 bits one
at 0xFFFF does not. -/
theorem test_host_address_width :
    bufferOverlaps { buffered 0xFFF 2 with hostAw := 12 } = true ∧
    bufferOverlaps { buffered 0xFFF 2 with hostAw := 16 } = false ∧
    bufferOverlaps { buffered 0xFFFF 2 with hostAw := 20 } = false := by decide

/-- A page read of `n` bytes on a bus that completes. -/
def readable (n : Word) : State :=
  paged n (completions (fine 7) ++ completions (fine n.toNat) ++ completions [(0, .device)] ++ [])

/-- The least page, and one of three bytes. -/
theorem test_meets_ReadPageSucceeds :
    ((readable 1).busy = false ∧ needPage (readable 1) = none ∧ hostWf (readable 1) = true ∧
      (fine 7).length = 7 ∧ (fine 1).length = (readable 1).ps.toNat ∧
      (∀ x ∈ fine 1, x.1 < (readable 1).retryBudget.toNat)) ∧
    ((readable 3).busy = false ∧ needPage (readable 3) = none ∧ hostWf (readable 3) = true ∧
      (fine 3).length = (readable 3).ps.toNat ∧ (∀ x ∈ fine 3, x.1 < (readable 3).retryBudget.toNat)) ∧
    (readable 1).env = completions (fine 7) ++ completions (fine 1) ++ completions [(0, .device)] ++ [] ∧
    (readable 3).env = completions (fine 7) ++ completions (fine 3) ++ completions [(0, .device)] ++ [] :=
  ⟨by decide, by decide, rfl, rfl⟩

/-- The first, a middle and the last byte of three times out: it never comes, or one poll too late. -/
theorem test_meets_ReadPageAborts :
    (∀ r ∈ ([.never true, .complete 100000 .device] : List Reply), ∀ f ∈ [0, 1, 2],
      let s := paged 3 (completions (fine 7) ++ completions (fine f) ++ [.reply r])
      (s.busy = false ∧ needPage s = none) ∧ hostWf s = true ∧ (fine 7).length = 7 ∧
      (fine f).length < s.ps.toNat ∧ (∀ x ∈ fine f, x.1 < s.retryBudget.toNat) ∧
      s.env = completions (fine 7) ++ completions (fine f) ++ .reply r :: []) ∧
    timesOut (paged 3 []).retryBudget (.never true) ∧
    timesOut (paged 3 []).retryBudget (.complete 100000 .device) := by
  simp only [timesOut]
  decide

/-- The first handshake, the sides of each change of `SEQ`, and the last STOP. -/
theorem test_meets_ReadPageHangs :
    (∀ k ∈ [0, 4, 5, 6],
      let s := paged 2 (completions (fine k) ++ [.reply (.never true)])
      (s.busy = false ∧ needPage s = none) ∧ (fine k).length < 7 ∧
      s.env = completions (fine k) ++ .reply (.never true) :: []) ∧
    (let s := paged 2 (completions (fine 7) ++ completions (fine 2) ++ [.reply (.never true)])
     (s.busy = false ∧ needPage s = none) ∧ hostWf s = true ∧ (fine 7).length = 7 ∧
     (fine 2).length = s.ps.toNat ∧ (∀ x ∈ fine 2, x.1 < s.retryBudget.toNat) ∧
     s.env = completions (fine 7) ++ completions (fine 2) ++ .reply (.never true) :: []) := by decide

/-- A page of three bytes that succeeds, that fails at its second byte, and that hangs at its last STOP:
the acknowledgments, from 41_page_client.md rule R95. -/
theorem test_meets_AcknowledgmentsGoByPosition :
    ((readable 3).busy = false ∧ needPage (readable 3) = none) ∧
    after (exec .readPage (readable 3)) (fun t =>
      decide (t.result = .success) && decide (inboundAcks t.trace = [.ack, .ack, .nak])) = true ∧
    after (exec .readPage (paged 3 (completions (fine 8) ++ [.reply (.never false)]))) (fun t =>
      decide (t.result = .failure) && decide (inboundAcks t.trace = [.ack, .ack])) = true ∧
    after (exec .readPage (paged 1 (completions (fine 8) ++ [.reply (.never false)]))) (fun t =>
      t.busy && decide (inboundAcks t.trace = [.nak])) = true := by decide

/-- The least page, and one of three bytes. -/
theorem test_meets_WritePageCompletes :
    (let s := paged 1 (completions (fine 6))
     (s.busy = false ∧ needPage s = none) ∧ (fine 6).length = s.ps.toNat + 5 ∧
     s.env = completions (fine 6) ++ []) ∧
    (let s := paged 3 (completions (fine 8))
     (s.busy = false ∧ needPage s = none) ∧ (fine 8).length = s.ps.toNat + 5 ∧
     s.env = completions (fine 8) ++ []) := by decide

/-- The first handshake, the sides of each change of `SEQ`, and the last STOP. -/
theorem test_meets_WritePageHangs :
    ∀ k ∈ [0, 3, 4, 5, 6],
      let s := paged 2 (completions (fine k) ++ [.reply (.never false)])
      (s.busy = false ∧ needPage s = none) ∧ (fine k).length < s.ps.toNat + 5 ∧
      s.env = completions (fine k) ++ .reply (.never false) :: [] := by decide

theorem test_meets_WritePageNeverFails :
    (paged 2 (completions (fine 7))).busy = false ∧
    after (exec .writePage (paged 2 (completions (fine 7)))) (fun _ => true) = true := by decide

theorem test_meets_WritePageIsItsExpansion :
    let s := paged 2 (completions (fine 7))
    (s.busy = false ∧ needPage s = none) ∧ s.inputs = [] ∧ (fine 7).length = s.ps.toNat + 5 ∧
    s.env = completions (fine 7) ++ [] := by decide

/-- The least page, and one of two bytes. -/
theorem test_meets_ReadPageIsItsExpansion :
    (((readable 1).busy = false ∧ needPage (readable 1) = none) ∧ (readable 1).inputs = [] ∧
      (fine 7).length = 7 ∧ (fine 1).length = (readable 1).ps.toNat ∧
      (∀ x ∈ fine 1, x.1 < (readable 1).retryBudget.toNat)) ∧
    (((readable 2).busy = false ∧ needPage (readable 2) = none) ∧ (readable 2).inputs = [] ∧
      (fine 2).length = (readable 2).ps.toNat ∧ (∀ x ∈ fine 2, x.1 < (readable 2).retryBudget.toNat)) ∧
    (readable 1).env = completions (fine 7) ++ completions (fine 1) ++ completions [(0, .device)] ++ [] ∧
    (readable 2).env = completions (fine 7) ++ completions (fine 2) ++ completions [(0, .device)] ++ [] :=
  ⟨by decide, by decide, rfl, rfl⟩

/-- A device that ends just behind the page, with a window that holds just the page. -/
def tight (s : State) : State := { s with dev := { s.dev with space := 8, window := 2 } }

theorem test_meets_pageInDevice : pageInDevice (tight (paged 2 [])).dev 3 2 := by
  unfold pageInDevice
  decide

theorem test_meets_ReadPageReadsTheDevice :
    let polls := List.replicate 10 2
    let s := tight (paged 2 (completions (nonFailing polls)))
    ((s.busy = false ∧ needPage s = none) ∧ hostWf s = true ∧
      polls.length = s.ps.toNat + 8 ∧ (∀ x ∈ nonFailing polls, x.1 < s.retryBudget.toNat) ∧
      s.env = completions (nonFailing polls) ++ []) ∧ pageInDevice s.dev s.pn s.ps :=
  ⟨by decide, test_meets_pageInDevice⟩

theorem test_meets_WritePageWritesTheDevice :
    let polls := List.replicate 7 2
    let s := tight (paged 2 (completions (nonFailing polls)))
    ((s.busy = false ∧ needPage s = none) ∧ s.dev.wf = true ∧
      polls.length = s.ps.toNat + 5 ∧ s.env = completions (nonFailing polls) ++ []) ∧
    pageInDevice s.dev s.pn s.ps :=
  ⟨by decide, test_meets_pageInDevice⟩

/-- The second buffer overlaps the first, and a stray write has left the device's contents open. -/
theorem test_meets_PageRoundTrip :
    let polls := List.replicate 17 2
    let t := tight (paged 2 (completions (nonFailing polls)))
    let s : State := { t with dev := { t.dev with strays := 1, settled := [3], mem := [(3, 11)] } }
    ((s.busy = false ∧ needPage s = none) ∧
      (s.busy = false ∧ needPage { s with buf := 0x0101 } = none) ∧
      (hostWf s = true ∧ s.dev.wf = true ∧ s.buf < hostSize s) ∧
      polls.length = (s.ps.toNat + 5) + (s.ps.toNat + 8) ∧
      (∀ x ∈ nonFailing polls, x.1 < s.retryBudget.toNat) ∧
      s.env = completions (nonFailing polls) ++ []) ∧ pageInDevice s.dev s.pn s.ps :=
  ⟨by decide, test_meets_pageInDevice⟩

/-- 20_memory.md rule R48 with U7: after a stray write, a byte written in the range is held again. -/
theorem test_write_after_stray :
    (({ Device.atReset with ph := .wr, astray := true }.take 7).1.strays = 1) ∧
    (({ Device.atReset with ph := .wr, strays := 1, ptr := 5 }.take 7).1.content 5 = 7) ∧
    (({ Device.atReset with ph := .wr, strays := 1, settled := [5], mem := [(5, 9)], ptr := 5 }.take
      0).1.content 5 = 0) := by decide

/-- A powered device in every frame position; inside its range at its last address. -/
theorem test_meets_DeviceFollowsItsTransitions :
    ∀ ph ∈ [Phase.idle, .sla, .ah, .al, .wr, .rd, .deaf],
      let d : Device := { Device.atReset with ph := ph, ptr := 0xFFFF, start := 0xFFFF, window := 128 }
      d.powered = true ∧ d.ph = ph ∧ d.inSpace = true ∧ d.inWindow = true ∧ d.wf = true := by
  decide

theorem test_meets_UnpoweredDeviceIsAbsent :
    ({ State.reset with dev := { Device.atReset with powered := false } } : State).dev.powered = false ∧
    ({ State.reset with inputs := [.gate false] } : State).inputs = .gate false :: [] ∧
    ({ State.reset with inputs := [.gate true] } : State).inputs = .gate true :: [] := by decide

theorem test_meets_LateCompletionSetsDoneOnce :
    ({ framed [] with inputs := [.lateCompletion], late := true } : State).inputs = .lateCompletion :: [] ∧
    ({ framed [] with inputs := [.lateCompletion], late := true } : State).late = true ∧
    (framed []).late = false ∧
    ∀ i ∈ ([.start, .stop, .writeByte] : List Instr),
      after (exec i { framed [.reply (.complete 0 .device)] with late := true }) (fun _ => true) =
        true := by decide

theorem test_meets_HostStoresOneByte :
    (let s : State := { paged 2 [] with inputs := [.store 0xFFFF 1] }
     s.inputs = .store 0xFFFF 1 :: [] ∧ hostWf s = true ∧ s.busy = false) ∧
    (let s : State := { hung with inputs := [.store 0 1] }
     s.inputs = .store 0 1 :: [] ∧ s.busy = true ∧ s.op ≠ some 0b1000 ∧ s.op ≠ some 0b1001) ∧
    (let s : State := { hung with inputs := [.store 0 1], op := some 0b1001 }
     s.inputs = .store 0 1 :: [] ∧ s.busy = true ∧ (s.op = some 0b1000 ∨ s.op = some 0b1001)) := by
  decide

theorem test_meets_CanonicalMemoriesAreEqualData :
    Memory.wf 65536 [(0, 1), (65535, 2)] = true ∧
    ∀ a < 65536, Memory.read [(0, 1), (65535, 2)] a = Memory.read [(0, 1), (65535, 2)] a :=
  ⟨by decide, fun _ _ => rfl⟩

/-- The three ways a command ends, and both that raise. -/
theorem test_meets_CommandsEndInOneOfTheWays :
    after (exec .init State.reset) (fun t => !t.busy && decide (t.result = .success)) = true ∧
    after (exec (.readByte .cont) (framed [.reply (.never false)])) (fun t =>
      decide (t.raised = [.busTimeout none]) && decide (t.result = .failure)) = true ∧
    after (exec .start (framed [.reply (.never false)])) (fun t => t.busy) = true := by decide

theorem test_meets_OnlyInboundBytesRaise :
    (framed [.reply (.never false)]).busy = false ∧
    after (exec .readPage (paged 1 (completions (fine 7) ++ [.reply (.never false)]))) (fun t =>
      decide (t.raised = [.busTimeout (some 0)])) = true := by decide

theorem test_meets_CommandsKeepTheOperands :
    after (exec .writePage (paged 2 (completions (fine 7)))) (fun t => decide (t.ps = 2)) = true ∧
    after (exec .start (framed [.reply (.reset true)])) (fun t => !t.inited) = true := by decide

/-- A step that answers a next state, for the statements about every step. -/
theorem test_meets_steps :
    after (step { State.reset with inputs := [.gate true] }) (fun _ => true) = true ∧
    after (step { framed [.reply (.complete 0 .device)] with inputs := [cmd 0x03] }) (fun t =>
      decide (t.trace = [.s, .p])) = true := by decide

theorem test_meets_HangIsForEver :
    SequencerInv hung ∧ hung.busy = true ∧
    after (step { hung with inputs := [cmd 0x02] }) (fun t => decide (t.trace = hung.trace)) = true := by
  unfold SequencerInv
  decide

/-- A page of two bytes, answered by the device and by something else. -/
theorem test_meets_AcknowledgmentsDoNotReachTheBlock :
    let nobody := List.replicate 7 (0, Answer.other 0 .nak)
    let reads := [(99999, Answer.other 5 .nak), (0, .other 6 .ack)]
    let s := paged 2 []
    (s.busy = false ∧ needPage s = none) ∧ (fine 7).length = s.ps.toNat + 5 ∧
    nobody.length = s.ps.toNat + 5 ∧ reads.length = s.ps.toNat ∧
    ∀ x ∈ reads, x.1 < s.retryBudget.toNat ∧ x.2 ≠ .device := by decide

/-! ## The host's accesses during a command -/

/-- `STATUS` between START and the device-address byte, in the wait for that byte, and between the two
frames of READ_PAGE: 10_state.md rule R26 with rules R16, R20. -/
theorem test_status_in_read_page :
    after (exec .readPage (paged 1 (completions (fine 1) ++ [.between (.access readStatus),
      .between (.access (.wr 16 0x04 9)), .access readStatus] ++ completions (fine 4) ++
      [.between (.access readStatus)] ++ completions (fine 4)))) (fun t =>
        decide (t.hostReads = [0x1B, 0x19, 0x13]) && decide (t.pn = 3) && !t.busy) = true := by decide

/-- `STATUS` before INIT and before START, with a transfer of earlier completing in between. -/
theorem test_status_before_start :
    after (exec .writePage { paged 1 ([.between (.access readStatus), .between .late, .between .go,
      .between (.access readStatus)] ++ completions (fine 6)) with late := true }) (fun t =>
        decide (t.hostReads = [0x01, 0x13]) && !t.late && !t.busy) = true := by decide

/-- Polling in the waits, between the primitives, and after the end; no entry but replies. -/
theorem test_meets_PollingChangesNothingElse :
    let s := paged 1 (.between (.access readStatus) :: .access (.wr 8 0x00 1) ::
      completions (fine 6) ++ [.between .late, .between .go, .access readStatus])
    s.busy = false ∧ (∀ h ∈ s.env, harmless h = true) ∧
    after (exec .writePage { s with env := s.env.filter isReply }) (fun _ => true) = true := by decide

/-- A wait of each command by hand, the first of a page command, and later ones, on either side of the
end of READ_PAGE's first frame; an inbound byte and the last STOP. -/
theorem test_meets_AccessesDuringAWait :
    (∀ i ∈ ([.start, .stop, .writeByte, .readByte .term] : List Instr),
      (framed []).busy = false ∧ i ≠ .init ∧ i ≠ .readPage ∧ i ≠ .writePage ∧
      missing i (framed []) = none) ∧
    (paged 2 []).busy = false ∧ needPage (paged 2 []) = none ∧
    (∀ k ∈ [1, 4, 5, 6], 1 ≤ (fine k).length ∧ (fine k).length < (paged 2 []).ps.toNat + 5 ∧
      (fine k).length < 7) ∧
    (fine 7).length = 7 ∧
    (∀ n ∈ [0, 2], (fine n).length ≤ (paged 2 []).ps.toNat ∧
      ∀ x ∈ fine n, x.1 < (paged 2 []).retryBudget.toNat) := by decide

/-- `STATUS` in three waits of READ_PAGE: the first, that of its second START, and its last. -/
theorem test_status_in_waits :
    after (exec .readPage (paged 1 (.access readStatus :: completions (fine 5) ++
      [.access readStatus] ++ completions (fine 3) ++ [.access readStatus] ++
      completions (fine 1)))) (fun t =>
        decide (t.hostReads = [0x11, 0x11, 0x19]) && !t.busy) = true := by decide

/-- A read of another register in a later wait, and in a later gap. -/
theorem test_read_in_write_page :
    ∀ x ∈ ([.access (.rd 8 0x02), interlude (.rd 8 0x02)] : List Happening),
      (match exec .writePage (paged 1 (completions (fine 5) ++ x :: completions (fine 1))) with
        | .refused r => decide (r = .readWhileBusy) | _ => false) = true := by decide

/-- Before INIT and before START; after the first bus primitive, on either side of the end of
READ_PAGE's first frame, before its first inbound byte, after its last. -/
theorem test_meets_StatusBetweenPrimitives :
    ((paged 2 []).busy = false ∧ needPage (paged 2 []) = none) ∧
    (∀ k ∈ [1, 4, 5, 6], 1 ≤ (fine k).length ∧ (fine k).length < (paged 2 []).ps.toNat + 5 ∧
      (fine k).length ≤ 7) ∧
    (fine 7).length = 7 ∧
    (∀ n ∈ [0, 1, 2], (fine n).length ≤ (paged 2 []).ps.toNat ∧
      ∀ x ∈ fine n, x.1 < (paged 2 []).retryBudget.toNat) := by decide

/-- A state that meets all five invariants and has a next state: the host's STOP in an open frame. -/
def stopping : State := { framed [.reply (.complete 0 .device)] with inputs := [cmd 0x03] }

theorem test_meets_StepKeeps :
    MemoryInv stopping ∧ HistoryInv stopping ∧ SequencerInv stopping ∧ FlagInv stopping ∧
    TimeoutInv stopping ∧ after (step stopping) (fun t => decide (t.trace = [.s, .p])) = true := by
  refine ⟨⟨?_, ?_, ?_⟩, ⟨?_, ?_, ?_⟩, ⟨?_, ?_⟩, ⟨fun _ => rfl, fun _ => rfl, ?_⟩, ⟨?_, ?_⟩, ?_⟩ <;> decide

/-- The invariants also hold in a hung state, and after a Bus Timeout. -/
theorem test_meets_invariants :
    HistoryInv hung ∧ SequencerInv hung ∧
    TimeoutInv { framed [] with trace := [.s, .rf .ack], raised := [.busTimeout none], cnt := 100000 } := by
  refine ⟨⟨?_, ?_, ?_⟩, ⟨?_, ?_⟩, ⟨?_, ?_⟩⟩ <;> decide

end Sys2Proof.Tests
end

section
/-! SUPPORT. The family of 00_scope.md: what every step, a reset included, keeps of the instance's
parameters and of the event history. -/

namespace Sys2Proof.Machine

open Sys2Proof.Safety

/-! ## What every step keeps -/

/-- A predicate that every operation of a command keeps, and everything else that can arrive between
commands; `R` is what a reset leaves. -/
structure StepKept (C R : State → Prop) : Prop extends Kept C R where
  arrival : ∀ rest u, C u → C { u with inputs := rest }
  launch : ∀ i u, C u → C (launch i u)
  gate : ∀ on u, C u → C (switchGate on u)
  operands : ∀ d p n b w v u, C u →
    C { u with data := d, pn := p, ps := n, buf := b, written := w, hostReads := v }

/-- What is kept by every operation and every arrival is kept by every step, or the step was a reset. -/
theorem StepKept.step {C R : State → Prop} (K : StepKept C R) {s t : State} (hs : C s)
    (h : step s = .next t) : C t ∨ R t := by
  rcases step_cases h with ⟨-, rfl⟩ | ⟨x, rest, u, -, rfl, hx⟩
  · exact .inl hs
  have hu := K.arrival rest s hs
  rcases hx with ⟨-, ht⟩ | ⟨hb, i, hi⟩ | ⟨-, -, ht⟩ | ⟨-, a, b, rfl⟩ | ⟨-, rfl⟩ | ⟨on, rfl⟩ | rfl
  · rw [ht]
    exact .inl (K.gap _ _ hu rfl)
  · exact exec_keeps K.toKept hb (K.launch i _ hu) hi
  · rw [ht]
    exact .inl (K.operands _ _ _ _ _ _ _ hu)
  · exact .inl (K.memWrite a b _ hu)
  · exact .inr (K.resetGap _ _ hu (Gaps.refl _))
  · exact .inl (K.gate on _ hu)
  · exact .inl (K.gap _ _ hu (completeLate_gaps _))

/-! ## The instance parameters -/

/-- What the instance fixes: `RETRY_BUDGET`, `HOST_AW`, the base of the register file, and the device's
size and window (00_scope.md rule R9, 10_state.md rule R24). -/
def parameters (s : State) : BitVec 32 × Nat × Nat × Nat × Nat :=
  (s.retryBudget, s.hostAw, s.regBase, s.dev.space, s.dev.window)

theorem parameters_eq_iff (s t : State) : parameters t = parameters s ↔
    t.retryBudget = s.retryBudget ∧ t.hostAw = s.hostAw ∧ t.regBase = s.regBase ∧
      t.dev.space = s.dev.space ∧ t.dev.window = s.dev.window := by
  simp only [parameters, Prod.mk.injEq]

theorem Waits.parameters_eq {s t : State} (h : Waits s t) : parameters t = parameters s := by
  unfold Waits at h
  rw [h]
  rfl

theorem Gaps.parameters_eq {s t : State} (h : Gaps s t) : parameters t = parameters s := by
  unfold Gaps at h
  rw [h]
  rfl

theorem reachIf_parameters (r : Bool) (e : Outbound) (s : State) :
    parameters (reachIf r e s) = parameters s := by
  obtain ⟨hspace, hwindow, -⟩ := s.dev.see_keeps e
  cases r
  · rfl
  · simp [parameters, reachIf_dev, hspace, hwindow]

theorem devRead_parameters (s : State) : parameters (devRead s) = parameters s := by
  obtain ⟨-, hspace, hwindow, -⟩ := devRead_keeps s
  rw [devRead_eq]
  simp [parameters, hspace, hwindow]

theorem readIf_parameters (r : Bool) (s : State) : parameters (readIf r s) = parameters s := by
  cases r
  · rfl
  · exact devRead_parameters s

theorem inbound_parameters (x : Answer) (s : State) : parameters (inbound x s) = parameters s := by
  cases x
  · exact devRead_parameters s
  · rfl

theorem markComplete_parameters (e : Outbound) (s : State) :
    parameters (markComplete e s) = parameters s := by simp [parameters]

theorem switchGate_parameters (on : Bool) (s : State) : parameters (switchGate on s) = parameters s := by
  cases on <;> rfl

/-- The device after a transfer that was given up still has the size and the window it had. -/
theorem takeBusTimeout_parameters (i : Option Word) (k : Ack) (c : BitVec 32) (s : State) (l : Bool)
    (d : Device) (n : Nat) (hd : d = s.dev ∨ d = (devRead s).dev) :
    parameters (takeBusTimeout i k c { s with late := l, dev := d, draws := n }) = parameters s := by
  obtain ⟨-, hspace, hwindow, -⟩ := devRead_keeps s
  rcases hd with rfl | rfl
  · rfl
  · simp [parameters, hspace, hwindow]

/-- Every operation and every arrival keeps the parameters, and so does a reset. -/
theorem parameters_stepKept (s : State) :
    StepKept (parameters · = parameters s) (parameters · = parameters s) where
  configure _ h := h
  finish _ h := h
  translate _ h := h
  memWrite _ _ _ h := h
  drawn _ h := h
  setData _ _ h := h
  setSeq _ _ h := h
  setIdx _ _ h := h
  gap _ _ h hg := hg.parameters_eq.trans h
  resetGap _ _ h hg := hg.parameters_eq.trans h
  complete e _ _ v h hw :=
    (markComplete_parameters e _).trans ((reachIf_parameters _ e v).trans (hw.parameters_eq.trans h))
  hang e r _ v h hw := (reachIf_parameters r e v).trans (hw.parameters_eq.trans h)
  accept _ x _ _ v h hw _ := (inbound_parameters x v).trans (hw.parameters_eq.trans h)
  timeout _ _ _ v l d n h hw hd :=
    (takeBusTimeout_parameters _ _ _ v l d n hd).trans (hw.parameters_eq.trans h)
  resetOut e r _ v h hw := (reachIf_parameters r e v).trans (hw.parameters_eq.trans h)
  resetIn _ r _ v h hw := (readIf_parameters r v).trans (hw.parameters_eq.trans h)
  arrival _ _ h := h
  launch _ _ h := h
  gate on u h := (switchGate_parameters on u).trans h
  operands _ _ _ _ _ _ _ h := h

/-- Settles O47: each operation a step is made of keeps the parameters, and reset does too. -/
theorem parametersNeverChange : Obligations.ParametersNeverChange := by
  unfold Obligations.ParametersNeverChange
  intro s t h
  exact (parameters_eq_iff s t).1 (or_self_iff.1 ((parameters_stepKept s).step rfl h))

/-! ## The event history -/

theorem Waits.trace_eq {s t : State} (h : Waits s t) : t.trace = s.trace := by
  unfold Waits at h
  rw [h]

theorem Gaps.trace_eq {s t : State} (h : Gaps s t) : t.trace = s.trace := by
  unfold Gaps at h
  rw [h]

theorem switchGate_trace (on : Bool) (s : State) : (switchGate on s).trace = s.trace := by
  cases on <;> rfl

theorem takeReset_atResetValues (s : State) : atResetValues (takeReset s) := by
  simp [atResetValues]

/-- Events come at the end only. -/
theorem prefix_of_trace_append {l : List Event} {u v : State} {e : Event} (h : l <+: u.trace)
    (hv : v.trace = u.trace ++ [e]) : l <+: v.trace :=
  hv ▸ h.trans (List.prefix_append _ _)

/-- Every operation and every arrival leaves the history alone or adds one event at its end, until a
reset puts the block at its reset values. -/
theorem trace_stepKept (s : State) : StepKept (s.trace <+: ·.trace) atResetValues where
  configure _ h := h
  finish _ h := h
  translate _ h := h
  memWrite _ _ _ h := h
  drawn _ h := h
  setData _ _ h := h
  setSeq _ _ h := h
  setIdx _ _ h := h
  gap _ _ h hg := hg.trace_eq ▸ h
  resetGap _ _ _ _ := takeReset_atResetValues _
  complete e x _ v h hw := prefix_of_trace_append (e := eventOf e x v) h (by simp [hw.trace_eq])
  hang e _ _ _ h hw := prefix_of_trace_append (e := hungEventOf e) h (by simp [hw.trace_eq])
  accept k x _ _ v h hw _ :=
    prefix_of_trace_append (e := .r (inboundByte x v) (ackOf k)) h (by simp [hw.trace_eq])
  timeout k _ _ _ _ _ _ h hw _ :=
    prefix_of_trace_append (e := .rf (ackOf k)) h (by simp [hw.trace_eq])
  resetOut _ _ _ _ _ _ := takeReset_atResetValues _
  resetIn _ _ _ _ _ _ := takeReset_atResetValues _
  arrival _ _ h := h
  launch _ _ h := h
  gate on u h := switchGate_trace on u ▸ h
  operands _ _ _ _ _ _ _ h := h

/-- Settles O49: each operation a step is made of keeps the old history as a prefix, or is a reset. -/
theorem historyOnlyGrows : Obligations.HistoryOnlyGrows := by
  unfold Obligations.HistoryOnlyGrows
  intro s t h
  exact (trace_stepKept s).step List.prefix_rfl h

end Sys2Proof.Machine
end

section
/-! SUPPORT. The family of 10_state.md: invariants of a step, and what holds all through a command and at
each of its ends. -/

namespace Sys2Proof.Machine

open Sys2Proof.Safety

theorem Waits.eq {s t : State} (h : Waits s t) :
    t = { s with env := t.env, draws := t.draws, hostReads := t.hostReads } := h

theorem Gaps.eq {s t : State} (h : Gaps s t) :
    t = { s with env := t.env, hostReads := t.hostReads, done := t.done, late := t.late } := h

/-! ## Invariants of a step and of a command -/

/-- An invariant, with a command taken as one step (`StepKept` asks it of every operation inside one):
whatever arrives between commands keeps it, and so does every command from an idle block. -/
structure Invariant (I : State → Prop) : Prop where
  arrival : ∀ rest u, I u → I { u with inputs := rest }
  operands : ∀ d p n b w v u, b = u.buf ∨ b < hostSize u → I u →
    I { u with data := d, pn := p, ps := n, buf := b, written := w, hostReads := v }
  store : ∀ a b u, I u → I (memWrite a b u)
  gate : ∀ on u, I u → I (switchGate on u)
  late : ∀ u, I u → I (completeLate u)
  reset : ∀ u, I u → I (takeReset u)
  command : ∀ i u t, u.busy = false → I u → exec i u = .next t → I t

/-- Every step keeps an invariant. -/
theorem Invariant.step {I : State → Prop} (K : Invariant I) {s t : State} (hs : I s)
    (h : step s = .next t) : I t := by
  rcases step_cases h with ⟨-, rfl⟩ | ⟨x, rest, u, -, rfl, hx⟩
  · exact hs
  have hu := K.arrival rest s hs
  rcases hx with ⟨-, ht⟩ | ⟨hb, i, hi⟩ | ⟨-, hbuf, ht⟩ | ⟨-, a, b, rfl⟩ | ⟨-, rfl⟩ | ⟨on, rfl⟩ | rfl
  · rw [ht]
    exact K.operands _ _ _ _ _ _ _ (.inl rfl) hu
  · exact K.command i _ t hb hu hi
  · rw [ht]
    exact K.operands _ _ _ _ _ _ _ hbuf hu
  · exact K.store a b _ hu
  · exact K.reset _ hu
  · exact K.gate on _ hu
  · exact K.late _ hu

/-- What holds all through a command (`C`), after a Bus Timeout (`F`), in a hang (`H`), and after a reset
(`R`). STOP and the bytes are sent in an open frame, after INIT; a byte times out in an open frame. -/
structure CommandKept (C F H R : State → Prop) : Prop where
  configure : ∀ u, C u → C (configure u)
  translate : ∀ u, C u → C (translate u)
  scribble : ∀ a b u, F u → F (drawn (memWrite a b u))
  memWrite : ∀ a b u, C u → C (memWrite a b u)
  setData : ∀ b u, C u → C (setData b u)
  setSeq : ∀ n u, C u → C (setSeq n u)
  setIdx : ∀ n u, C u → C (setIdx n u)
  gap : ∀ u v, C u → Gaps u v → C v
  resetGap : ∀ u v, C u → Gaps u v → R (takeReset v)
  complete : ∀ e x u v, C u → u.inited = true → e = .start ∨ u.inframe = true →
    Waits (clearDone u) v → C (markComplete e (deliver e x v))
  hang : ∀ e r u v, C u → Waits (clearDone u) v → H (emit (hungEventOf e) (reachIf r e v))
  accept : ∀ k x d u v, C u → Waits (requested k u) v → d < v.retryBudget.toNat →
    C (acceptByte k x d v)
  timeout : ∀ k i u v l d n, C u → u.inframe = true → Waits (requested k u) v →
    d = v.dev ∨ d = (devRead v).dev →
    F (takeBusTimeout i (ackOf k) v.retryBudget { v with late := l, dev := d, draws := n })
  resetOut : ∀ e r u v, C u → Waits (clearDone u) v → R (takeReset (reachIf r e v))
  resetIn : ∀ k r u v, C u → Waits (requested k u) v → R (takeReset (readIf r v))

/-- Where a command stands after INIT, and there inside a frame. -/
def AfterInit (C : State → Prop) (s : State) : Prop := C s ∧ s.inited = true
def InFrame (C : State → Prop) (s : State) : Prop := AfterInit C s ∧ s.inframe = true

section
variable {C F H R : State → Prop} (K : CommandKept C F H R)
include K

theorem CommandKept.gapAfter (u v : State) (h : AfterInit C u) (hg : Gaps u v) : AfterInit C v :=
  ⟨K.gap u v h.1 hg, by rw [hg.eq]; exact h.2⟩

theorem CommandKept.gapIn (u v : State) (h : InFrame C u) (hg : Gaps u v) : InFrame C v :=
  ⟨K.gapAfter u v h.1 hg, by rw [hg.eq]; exact h.2⟩

/-- An outbound primitive where its rule admits it: START anywhere after INIT, the others in a frame. -/
theorem CommandKept.transmit {e : Outbound} {u : State} {D : State → Prop} (hu : AfterInit C u)
    (he : e = .start ∨ u.inframe = true)
    (hD : ∀ v, AfterInit C v → v.inframe = frameFlag e u.inframe → D v) :
    (transmit e u).Ends D (fun _ => False) H R := by
  refine transmit_ends (fun x v hv => hD _ ⟨K.complete e x u v hu.1 hu.2 he hv, ?_⟩ ?_)
    (fun r v hv => K.hang e r u v hu.1 hv) (fun r v hv => K.resetOut e r u v hu.1 hv)
  all_goals rw [hv.eq]
  · simpa using hu.2
  · cases e <;> simp [frameFlag]

theorem CommandKept.start {u : State} (hu : AfterInit C u) :
    (Machine.transmit .start u).Ends (InFrame C) (fun _ => False) H R :=
  K.transmit hu (.inl rfl) fun _ hv hf => ⟨hv, hf⟩

theorem CommandKept.stop {u : State} (hu : InFrame C u) :
    (Machine.transmit .stop u).Ends (AfterInit C) (fun _ => False) H R :=
  K.transmit hu.1 (.inr hu.2) fun _ hv _ => hv

theorem CommandKept.sendByte (b : Byte) {u : State} (hu : InFrame C u) :
    (Machine.sendByte b u).Ends (InFrame C) (fun _ => False) H R :=
  K.transmit ⟨K.setData b u hu.1.1, hu.1.2⟩ (.inr hu.2) fun _ hv hf => ⟨hv, hf.trans hu.2⟩

theorem CommandKept.receive (k : AckFlag) (i : Option Word) {u : State} (hu : InFrame C u) :
    (Machine.receive k i u).Ends (InFrame C) F (fun _ => False) R := by
  refine receive_ends (fun x d v hv hd => ⟨⟨K.accept k x d u v hu.1.1 hv hd, ?_⟩, ?_⟩)
    (fun v l d n hv hd => K.timeout k i u v l d n hu.1.1 hu.2 hv hd)
    (fun r v hv => K.resetIn k r u v hu.1.1 hv)
  all_goals rw [hv.eq]
  · simpa using hu.1.2
  · simpa using hu.2

theorem CommandKept.carries : Carries (AfterInit C) (InFrame C) F H R where
  seqP n s h := ⟨K.setSeq n s h.1, h.2⟩
  seqQ n s h := ⟨⟨K.setSeq n s h.1.1, h.1.2⟩, h.2⟩
  idxQ n s h := ⟨⟨K.setIdx n s h.1.1, h.1.2⟩, h.2⟩
  gapP := K.gapAfter
  gapQ := K.gapIn
  resetP s t h hg := K.resetGap s t h.1 hg
  resetQ s t h hg := K.resetGap s t h.1.1 hg
  start _ h := K.start h
  stop _ h := K.stop h
  send b _ h := K.sendByte b h

theorem CommandKept.carriesReads : CarriesReads (InFrame C) F R where
  store a b s h := ⟨⟨K.memWrite a b s h.1.1, h.1.2⟩, h.2⟩
  idxQ n s h := ⟨⟨K.setIdx n s h.1.1, h.1.2⟩, h.2⟩
  gapQ := K.gapIn
  resetQ s t h hg := K.resetGap s t h.1.1 hg
  receive k i _ h := K.receive k (some i) h
  scribble := K.scribble

theorem CommandKept.begins {s : State} (h : C s) : Begins C (AfterInit C) R s where
  launched := K.setSeq 1 s h
  gap := K.gap
  reset := K.resetGap
  init _ hu := ⟨K.translate _ (K.setSeq 2 _ (K.configure _ hu)), rfl⟩

/-- Everything a command can do from an idle block, in terms of what holds at each of its ends. -/
theorem CommandKept.exec {i : Instr} {s t : State} (hb : s.busy = false) (hl : C (launch i s))
    (h : exec i s = .next t) : (∃ u, (C u ∨ F u) ∧ t = finish u) ∨ H t ∨ R t := by
  have hinit : s.inited = true → AfterInit C (launch i s) := fun hi => ⟨hl, hi⟩
  have hframe : s.inited = true → s.inframe = true → InFrame C (launch i s) :=
    fun hi hf => ⟨⟨hl, hi⟩, hf⟩
  have weaken : ∀ {x : Run} {D G : State → Prop}, (∀ u, D u → C u) → x.Ends D G H R → x.Ends C G H R :=
    fun hD hx => hx.mono hD (fun _ => id) (fun _ => id) (fun _ => id)
  rcases exec_ends (C := C) (F := F) (H := H) (R := R) hb h (fun _ => K.configure _ hl)
      (fun _ hi => weaken (fun _ hu => hu.1.1) (K.start (hinit hi)))
      (fun _ hi hf => weaken (fun _ hu => hu.1) (K.stop (hframe hi hf)))
      (fun _ hi hf => weaken (fun _ hu => hu.1.1) (K.sendByte _ (hframe hi hf)))
      (fun k _ hi hf => (K.receive k none (hframe hi hf)).mono (fun _ hu => hu.1.1) (fun _ => id)
        (fun _ => False.elim) (fun _ => id))
      (fun _ _ => weaken (fun _ hu => hu.1) (readPageBody_ends K.carries K.carriesReads (K.begins hl)))
      (fun _ _ => weaken (fun _ hu => hu.1) (writePageBody_ends K.carries (K.begins hl)))
    with ⟨u, hu, rfl⟩ | ⟨u, hu, -, rfl⟩ | ⟨ht, -⟩ | ht
  · exact .inl ⟨u, .inl hu, rfl⟩
  · exact .inl ⟨u, .inr hu, rfl⟩
  · exact .inr (.inl ht)
  · exact .inr (.inr ht)

end

end Sys2Proof.Machine
end

section
/-! SUPPORT. The five invariants of 10_state.md, each kept by every step and met after reset. -/

namespace Sys2Proof.Machine

open Sys2Proof.Safety

/-! ## The byte memories -/

/-- The memory invariant depends on the two memories, `BUF` and the size of the host's space alone. -/
theorem memoryInv_of_eq {s t : State} (h : MemoryInv s) (hz : t.hostAw = s.hostAw)
    (hm : t.hostMem = s.hostMem) (hb : t.buf = s.buf) (hd : s.dev.wf = true → t.dev.wf = true) :
    MemoryInv t := by
  obtain ⟨hhost, hdev, hbuf⟩ := h
  exact ⟨by rw [hostWf, hostSize, hz, hm]; exact hhost, hd hdev, by rw [hostSize, hz, hb]; exact hbuf⟩

theorem memoryInv_waits {s t : State} (h : MemoryInv s) (hw : Waits s t) : MemoryInv t := by
  rw [hw.eq]
  exact h

theorem memoryInv_gaps {s t : State} (h : MemoryInv s) (hg : Gaps s t) : MemoryInv t := by
  rw [hg.eq]
  exact h

theorem memoryInv_memWrite {s : State} (a : Nat) (b : Byte) (h : MemoryInv s) :
    MemoryInv (memWrite a b s) := ⟨memWrite_wf a b h.1, h.2⟩

/-- Reset makes `BUF` 0, which is a host address. -/
theorem memoryInv_takeReset {s : State} (h : MemoryInv s) : MemoryInv (takeReset s) :=
  ⟨h.1, h.2.1, hostSize_pos _⟩

theorem memoryInv_reachIf {s : State} (r : Bool) (e : Outbound) (h : MemoryInv s) :
    MemoryInv (reachIf r e s) := by
  refine memoryInv_of_eq h (by simp) (by simp) (by simp) fun hd => ?_
  rw [reachIf_dev]
  split
  · exact Device.see_wf e _ hd
  · exact hd

theorem inbound_wf (x : Answer) (s : State) : (inbound x s).dev.wf = s.dev.wf := by
  cases x
  · exact (devRead_contents s).1
  · rfl

theorem readIf_wf (r : Bool) (s : State) : (readIf r s).dev.wf = s.dev.wf := by
  cases r
  · rfl
  · exact (devRead_contents s).1

/-- The device's bytes and the host's stay canonical through every operation of a command. -/
theorem memoryInv_kept : Kept MemoryInv MemoryInv where
  configure _ h := h
  finish _ h := h
  translate _ h := h
  memWrite a b _ h := memoryInv_memWrite a b h
  drawn _ h := h
  setData _ _ h := h
  setSeq _ _ h := h
  setIdx _ _ h := h
  gap _ _ h hg := memoryInv_gaps h hg
  resetGap _ _ h hg := memoryInv_takeReset (memoryInv_gaps h hg)
  complete e x u v h hw := by
    refine memoryInv_of_eq (memoryInv_reachIf (decide (x = .device)) e
      (memoryInv_waits (s := clearDone u) h hw)) ?_ ?_ ?_ ?_ <;> simp [deliver]
  hang e r u v h hw := memoryInv_reachIf r e (memoryInv_waits (s := clearDone u) h hw)
  accept k x d u v h hw _ :=
    memoryInv_of_eq (memoryInv_waits (s := requested k u) h hw) (by simp) (by simp) (by simp)
      (by simp [inbound_wf])
  timeout k i u v l d n h hw hd := by
    refine memoryInv_of_eq (memoryInv_waits (s := requested k u) h hw) rfl rfl rfl fun hv => ?_
    rcases hd with rfl | rfl
    · exact hv
    · exact (devRead_contents v).1.trans hv
  resetOut e r u v h hw :=
    memoryInv_takeReset (memoryInv_reachIf r e (memoryInv_waits (s := clearDone u) h hw))
  resetIn k r u v h hw := by
    refine memoryInv_takeReset
      (memoryInv_of_eq (memoryInv_waits (s := requested k u) h hw) ?_ ?_ ?_ ?_) <;> simp [readIf_wf]

theorem switchGate_wf (on : Bool) (s : State) : (switchGate on s).dev.wf = s.dev.wf := by
  cases on <;> rfl

theorem memoryInv_invariant : Invariant MemoryInv where
  arrival _ _ h := h
  operands _ _ _ _ _ _ _ hb h := ⟨h.1, h.2.1, hb.elim (fun he => he ▸ h.2.2) id⟩
  store a b _ h := memoryInv_memWrite a b h
  gate on u h := by
    refine memoryInv_of_eq h ?_ ?_ ?_ (fun hd => (switchGate_wf on u).trans hd) <;> cases on <;> rfl
  late u h := memoryInv_gaps h (completeLate_gaps u)
  reset _ h := memoryInv_takeReset h
  command _ _ _ hb h ht := or_self_iff.1 (exec_keeps memoryInv_kept hb h ht)

/-- Settles O52: each operation keeps both memories canonical and `BUF` a host address. -/
theorem stepKeepsMemoryCanonical : Obligations.StepKeepsMemoryCanonical := by
  unfold Obligations.StepKeepsMemoryCanonical
  exact fun _ _ => memoryInv_invariant.step

/-! ## The history -/

theorem frameOpen_concat (l : List Event) (e : Event) :
    frameOpen (l ++ [e]) = frameAfter (frameOpen l) e := by
  simp [frameOpen]

theorem endsHung_concat (l : List Event) (e : Event) : endsHung (l ++ [e]) = e.unfinished := by
  simp [endsHung]

/-- A history that does not end in a hang, and has no unfinished event before its end, has none. -/
theorem finished_of_endsHung {l : List Event} (h : ∀ e ∈ l.dropLast, e.unfinished = false)
    (he : endsHung l = false) : ∀ e ∈ l, e.unfinished = false := by
  rcases List.eq_nil_or_concat l with rfl | ⟨l, e, rfl⟩
  · simp
  · rw [List.concat_eq_append] at h he ⊢
    rw [endsHung_concat] at he
    simp only [List.dropLast_concat] at h
    simpa [or_imp, forall_and, he] using h

theorem endsHung_of_finished {l : List Event} (h : ∀ e ∈ l, e.unfinished = false) :
    endsHung l = false := by
  rcases List.eq_nil_or_concat l with rfl | ⟨l, e, rfl⟩
  · rfl
  · rw [List.concat_eq_append] at h ⊢
    rw [endsHung_concat]
    exact h e (by simp)

theorem frameAfter_eventOf (e : Outbound) (x : Answer) (s : State) (b : Bool) :
    frameAfter b (eventOf e x s) = frameFlag e b := by cases e <;> rfl

theorem eventOf_finished (e : Outbound) (x : Answer) (s : State) :
    (eventOf e x s).unfinished = false := by cases e <;> rfl

theorem hungEventOf_unfinished (e : Outbound) : (hungEventOf e).unfinished = true := by
  cases e <;> rfl

theorem frameAfter_hungEventOf (e : Outbound) (b : Bool) : frameAfter b (hungEventOf e) = b := by
  cases e <;> rfl

theorem markComplete_inframe (e : Outbound) (s : State) :
    (markComplete e s).inframe = frameFlag e s.inframe := by cases e <;> rfl

/-- Inside a command `BUSY` is 1 and no event of the history is unfinished. -/
def HistoryUnderway (s : State) : Prop :=
  s.inframe = frameOpen s.trace ∧ (∀ e ∈ s.trace, e.unfinished = false) ∧ s.busy = true

/-- One more event that is not unfinished, with `INFRAME` what it makes of it. -/
theorem HistoryUnderway.concat {s t : State} {e : Event} (h : HistoryUnderway s)
    (ht : t.trace = s.trace ++ [e]) (he : e.unfinished = false)
    (hf : t.inframe = frameAfter s.inframe e) (hb : t.busy = s.busy) : HistoryUnderway t := by
  obtain ⟨hframe, hfin, hbusy⟩ := h
  refine ⟨by rw [hf, ht, frameOpen_concat, hframe], ?_, hb.trans hbusy⟩
  rw [ht]
  simpa [or_imp, forall_and, he] using hfin

theorem HistoryUnderway.launch {s : State} (i : Instr) (hb : s.busy = false) (h : HistoryInv s) :
    HistoryUnderway (launch i s) := by
  obtain ⟨hframe, hfin, hhung⟩ := h
  exact ⟨hframe, finished_of_endsHung hfin (hhung.symm.trans hb), rfl⟩

theorem HistoryUnderway.finish {s : State} (h : HistoryUnderway s) : HistoryInv (finish s) := by
  obtain ⟨hframe, hfin, -⟩ := h
  exact ⟨hframe, fun e he => hfin e (List.mem_of_mem_dropLast he), (endsHung_of_finished hfin).symm⟩

theorem historyInv_takeReset (s : State) : HistoryInv (takeReset s) :=
  ⟨rfl, by simp, rfl⟩

/-- Every operation of a command keeps the history true; a hang ends it in an unfinished event. -/
theorem history_commandKept :
    CommandKept HistoryUnderway HistoryUnderway HistoryInv HistoryInv where
  configure _ h := h
  translate _ h := h
  scribble _ _ _ h := h
  memWrite _ _ _ h := h
  setData _ _ h := h
  setSeq _ _ h := h
  setIdx _ _ h := h
  gap u v h hg := by
    rw [hg.eq]
    exact h
  resetGap _ _ _ _ := historyInv_takeReset _
  complete e x u v h _ _ hw := by
    refine h.concat (e := eventOf e x v) ?_ (eventOf_finished e x v) ?_ ?_ <;> rw [hw.eq] <;>
      simp [markComplete_inframe, frameAfter_eventOf]
  hang e r u v h hw := by
    obtain ⟨hframe, hfin, hbusy⟩ := h
    rw [hw.eq]
    refine ⟨?_, ?_, ?_⟩
    · simp [frameOpen_concat, frameAfter_hungEventOf, hframe]
    · simpa using hfin
    · simp [endsHung_concat, hungEventOf_unfinished, hbusy]
  accept k x d u v h hw _ := by
    refine h.concat (e := .r (inboundByte x v) (ackOf k)) ?_ rfl ?_ ?_ <;> rw [hw.eq] <;>
      simp [frameAfter]
  timeout k i u v l d n h _ hw _ := by
    refine h.concat (e := .rf (ackOf k)) ?_ rfl ?_ ?_ <;> rw [hw.eq] <;> simp [frameAfter]
  resetOut _ _ _ _ _ _ := historyInv_takeReset _
  resetIn _ _ _ _ _ _ := historyInv_takeReset _

theorem historyInv_invariant : Invariant HistoryInv where
  arrival _ _ h := h
  operands _ _ _ _ _ _ _ _ h := h
  store _ _ _ h := h
  gate on _ h := by cases on <;> exact h
  late u h := by
    rw [(completeLate_gaps u).eq]
    exact h
  reset _ _ := historyInv_takeReset _
  command i u t hb h ht := by
    rcases history_commandKept.exec hb (HistoryUnderway.launch i hb h) ht with ⟨v, hv, rfl⟩ | ht | ht
    · exact (or_self_iff.1 hv).finish
    · exact ht
    · exact ht

/-- Settles O53: inside a command no event is unfinished; it ends with the history as it is, or in a hang
with one unfinished event more. -/
theorem stepKeepsHistoryTrue : Obligations.StepKeepsHistoryTrue := by
  unfold Obligations.StepKeepsHistoryTrue
  exact fun _ _ => historyInv_invariant.step

/-! ## The sequencer -/

/-- Inside a command `BUSY` is 1 and `OP` is latched. -/
def SequencerUnderway (s : State) : Prop := s.busy = true ∧ s.op ≠ none

theorem sequencerInv_finish (s : State) : SequencerInv (finish s) :=
  ⟨fun _ => ⟨rfl, rfl⟩, nofun⟩

theorem sequencerInv_takeReset (s : State) : SequencerInv (takeReset s) :=
  ⟨fun _ => ⟨rfl, rfl⟩, nofun⟩

/-- In a busy block no earlier transfer is outstanding, so nothing completes late. -/
theorem sequencerInv_completeLate {s : State} (h : SequencerInv s) : SequencerInv (completeLate s) := by
  obtain ⟨hidle, hbusy⟩ := h
  unfold Machine.completeLate
  split
  · rename_i hl
    exact ⟨hidle, fun hb => absurd hl (by simp [(hbusy hb).2.2])⟩
  · exact ⟨hidle, hbusy⟩

theorem sequencer_commandKept :
    CommandKept SequencerUnderway (fun _ => True) SequencerInv SequencerInv where
  configure _ h := h
  translate _ h := h
  scribble _ _ _ h := h
  memWrite _ _ _ h := h
  setData _ _ h := h
  setSeq _ _ h := h
  setIdx _ _ h := h
  gap u v h hg := by
    rw [hg.eq]
    exact h
  resetGap _ _ _ _ := sequencerInv_takeReset _
  complete e x u v h _ _ hw := by
    rw [hw.eq]
    simpa [SequencerUnderway] using h
  hang e r u v h hw := by
    rw [hw.eq]
    simpa [SequencerInv, h.1] using h.2
  accept k x d u v h hw _ := by
    rw [hw.eq]
    simpa [SequencerUnderway] using h
  timeout _ _ _ _ _ _ _ _ _ _ _ := trivial
  resetOut _ _ _ _ _ _ := sequencerInv_takeReset _
  resetIn _ _ _ _ _ _ := sequencerInv_takeReset _

theorem sequencerInv_invariant : Invariant SequencerInv where
  arrival _ _ h := h
  operands _ _ _ _ _ _ _ _ h := h
  store _ _ _ h := h
  gate on _ h := by cases on <;> exact h
  late _ h := sequencerInv_completeLate h
  reset _ _ := sequencerInv_takeReset _
  command i u t hb _ ht := by
    rcases sequencer_commandKept.exec hb ⟨rfl, nofun⟩ ht with ⟨v, -, rfl⟩ | ht | ht
    · exact sequencerInv_finish v
    · exact ht
    · exact ht

/-- Settles O54: `OP` is latched all through a command and cleared at its end; a hang leaves it, with the
`DONE` and the late transfer that the launch of the primitive cleared. -/
theorem stepKeepsTheSequencer : Obligations.StepKeepsTheSequencer := by
  unfold Obligations.StepKeepsTheSequencer
  exact fun _ _ => sequencerInv_invariant.step

/-! ## The flags -/

theorem flagInv_takeReset (s : State) : FlagInv (takeReset s) :=
  ⟨nofun, nofun, nofun⟩

/-- After an outbound primitive completed, `RESULT` is Success, and a frame is open only after INIT. -/
theorem flagInv_markComplete {s : State} (e : Outbound) (h : FlagInv s) (hi : s.inited = true) :
    FlagInv (markComplete e s) := by
  obtain ⟨hcfg, -, -⟩ := h
  exact ⟨by simpa using hcfg, by simp [hi], by simp⟩

theorem flag_commandKept : CommandKept FlagInv FlagInv FlagInv FlagInv where
  configure _ h := ⟨fun _ => rfl, fun _ => rfl, nofun⟩
  translate _ h := h
  scribble _ _ _ h := h
  memWrite _ _ _ h := h
  setData _ _ h := h
  setSeq _ _ h := h
  setIdx _ _ h := h
  gap u v h hg := by
    rw [hg.eq]
    exact h
  resetGap _ _ _ _ := flagInv_takeReset _
  complete e x u v h hi _ hw := by
    rw [hw.eq]
    refine flagInv_markComplete e ?_ (by simpa using hi)
    simpa [FlagInv] using h
  hang e r u v h hw := by
    rw [hw.eq]
    simpa [FlagInv] using h
  accept k x d u v h hw _ := by
    rw [hw.eq]
    exact ⟨by simpa using h.1, by simpa using h.2.1, by simp⟩
  timeout k i u v l d n h hf hw _ := by
    rw [hw.eq]
    exact ⟨h.1, h.2.1, fun _ => hf⟩
  resetOut _ _ _ _ _ _ := flagInv_takeReset _
  resetIn _ _ _ _ _ _ := flagInv_takeReset _

theorem flagInv_invariant : Invariant FlagInv where
  arrival _ _ h := h
  operands _ _ _ _ _ _ _ _ h := h
  store _ _ _ h := h
  gate on _ h := by cases on <;> exact h
  late u h := by
    rw [(completeLate_gaps u).eq]
    exact h
  reset _ _ := flagInv_takeReset _
  command i u t hb h ht := by
    rcases flag_commandKept.exec hb h ht with ⟨v, hv, rfl⟩ | ht | ht
    · exact or_self_iff.1 hv
    · exact ht
    · exact ht

/-- Settles O55: a primitive completes after INIT only, and a byte times out in an open frame only. -/
theorem stepKeepsTheFlags : Obligations.StepKeepsTheFlags := by
  unfold Obligations.StepKeepsTheFlags
  exact fun _ _ => flagInv_invariant.step

/-! ## The timeout record -/

theorem timeoutInv_takeReset (s : State) : TimeoutInv (takeReset s) := ⟨Nat.zero_le _, rfl⟩

/-- The timeout invariant depends on `CNT`, the budget, the record, and the `RF` events alone. -/
theorem timeoutInv_of_eq {s t : State} (h : TimeoutInv s) (hc : t.cnt = s.cnt)
    (hb : t.retryBudget = s.retryBudget) (hr : t.raised = s.raised)
    (ht : t.trace.countP isTimeout = s.trace.countP isTimeout) : TimeoutInv t := by
  rw [TimeoutInv, hc, hb, hr, ht]
  exact h

theorem isTimeout_eventOf (e : Outbound) (x : Answer) (s : State) : isTimeout (eventOf e x s) = false := by
  cases e <;> rfl

theorem isTimeout_hungEventOf (e : Outbound) : isTimeout (hungEventOf e) = false := by
  cases e <;> rfl

theorem timeoutInv_stepKept : StepKept TimeoutInv TimeoutInv where
  configure _ h := h
  finish _ h := h
  translate _ h := h
  memWrite _ _ _ h := h
  drawn _ h := h
  setData _ _ h := h
  setSeq _ _ h := h
  setIdx _ _ h := h
  gap u v h hg := by
    rw [hg.eq]
    exact h
  resetGap _ _ _ _ := timeoutInv_takeReset _
  complete e x u v h hw := by
    refine timeoutInv_of_eq h ?_ ?_ ?_ ?_ <;> rw [hw.eq] <;> simp [isTimeout_eventOf]
  hang e r u v h hw := by
    refine timeoutInv_of_eq h ?_ ?_ ?_ ?_ <;> rw [hw.eq] <;> simp [isTimeout_hungEventOf]
  accept k x d u v h hw hd := by
    obtain ⟨-, hrec⟩ := h
    rw [hw.eq] at hd ⊢
    refine ⟨?_, by simpa [isTimeout] using hrec⟩
    simpa using (Nat.mod_le _ _).trans hd.le
  timeout k i u v l d n h hw _ := by
    rw [hw.eq]
    exact ⟨le_refl _, by simpa [isTimeout] using h.2⟩
  resetOut _ _ _ _ _ _ := timeoutInv_takeReset _
  resetIn _ _ _ _ _ _ := timeoutInv_takeReset _
  arrival _ _ h := h
  launch _ _ h := h
  gate on _ h := by cases on <;> exact h
  operands _ _ _ _ _ _ _ h := h

/-- Settles O56: a byte that arrives was polled for less than the budget, and one `RF` comes with each
Bus Timeout. -/
theorem stepKeepsTheTimeoutRecord : Obligations.StepKeepsTheTimeoutRecord := by
  unfold Obligations.StepKeepsTheTimeoutRecord
  exact fun _ _ hs ht => or_self_iff.1 (timeoutInv_stepKept.step hs ht)

/-- Settles O51: every element of reset's state is given. -/
theorem resetMeetsTheInvariants : Obligations.ResetMeetsTheInvariants := by
  unfold Obligations.ResetMeetsTheInvariants
  exact ⟨⟨rfl, rfl, hostSize_pos _⟩, historyInv_takeReset State.reset,
    sequencerInv_takeReset State.reset, flagInv_takeReset State.reset, timeoutInv_takeReset State.reset⟩

end Sys2Proof.Machine
end

section
/-! SUPPORT. The family of 10_state.md: the host's register accesses between commands and in a hang, the
launch of a command, `STATUS`, reset, and the laws of canonical memories. -/

namespace Sys2Proof.Machine

open Sys2Proof.Safety

/-! ## One access of the host -/

/-- While `BUSY = 1` an access is served or dropped, and launches nothing. -/
theorem step_access_busy {s : State} {a : Access} {rest : List Input} (hb : s.busy = true)
    (h : s.inputs = .access a :: rest) :
    step s = served (busyAccess a { s with inputs := rest }) := by
  rw [step_cons h, arrive, access, if_pos hb]

/-- While idle a write to `CMD` launches the command of its byte. -/
theorem step_write_cmd {s : State} {b : Byte} {rest : List Input} (hb : s.busy = false)
    (h : s.inputs = .access (.wr 8 0x00 b) :: rest) : step s = writeCmd b { s with inputs := rest } := by
  rw [step_cons h, arrive, access, if_neg (by simp [hb])]
  simp [commandOf, cmdOffset]

/-- While idle every other access reaches the registers. -/
theorem step_access_idle {s : State} {a : Access} {rest : List Input} (hb : s.busy = false)
    (h : s.inputs = .access a :: rest) (ha : commandOf a = none) :
    step s = served (idleAccess a { s with inputs := rest }) := by
  rw [step_cons h, arrive, access, if_neg (by simp [hb]), ha]

/-- While idle a read at a register's own width gives the host what `readAt` says. -/
theorem step_read_idle {s : State} {width : Nat} {off : BitVec 5} {rest : List Input}
    (hb : s.busy = false) (h : s.inputs = .access (.rd width off) :: rest)
    (hw : widthAt s.hostAw off = some width) :
    step s = served (giveRead (readAt off s) { s with inputs := rest }) := by
  rw [step_access_idle hb h rfl, idleAccess, if_pos hw]
  rfl

/-- A register that holds a value gives it. -/
theorem step_read_value {s : State} {width v : Nat} {off : BitVec 5} {rest : List Input}
    (hb : s.busy = false) (h : s.inputs = .access (.rd width off) :: rest)
    (hw : widthAt s.hostAw off = some width) (hv : readAt off s = .ok v) :
    step s = .next { s with inputs := rest, hostReads := s.hostReads ++ [v] } := by
  rw [step_read_idle hb h hw, hv]
  rfl

/-- A register that holds no value cannot be read. -/
theorem step_read_noValue {s : State} {width : Nat} {off : BitVec 5} {reg : RegName}
    {rest : List Input} (hb : s.busy = false) (h : s.inputs = .access (.rd width off) :: rest)
    (hw : widthAt s.hostAw off = some width) (hv : readAt off s = .error (.noValue reg)) :
    step s = .refused (.noValue reg) := by
  rw [step_read_idle hb h hw, hv]
  rfl

/-- While idle a write at a register's own width, but to `CMD`, does what `writeAt` says. -/
theorem step_write_idle {s : State} {width : Nat} {off : BitVec 5} {v : BitVec width}
    {rest : List Input} (hb : s.busy = false) (h : s.inputs = .access (.wr width off v) :: rest)
    (hoff : off ≠ cmdOffset) (hw : widthAt s.hostAw off = some width) :
    step s = .next (writeAt off v.toNat { s with inputs := rest }) := by
  rw [step_access_idle hb h (by simp [commandOf, hoff]), idleAccess, if_pos hw, served]

/-- The width the model looks up at an offset is the one that the register map lists there. -/
theorem widthAt_eq_some_iff (hostAw width : Nat) (off : BitVec 5) :
    widthAt hostAw off = some width ↔ legalWidth hostAw width off = true := by
  simp only [legalWidth, offsets8, offsets16, offsets32, offsetsHost, List.contains_iff_mem,
    List.mem_cons, List.not_mem_nil, or_false, Bool.or_eq_true, Bool.and_eq_true, decide_eq_true_eq]
  unfold widthAt
  split
  · rename_i h
    rcases h with rfl | rfl | rfl | rfl | rfl <;> simp [eq_comm]
  · rename_i h8
    split
    · rename_i h
      rcases h with rfl | rfl | rfl <;> simp [eq_comm]
    · rename_i h16
      split
      · rename_i h
        subst h
        simp [eq_comm]
      · rename_i h32
        split
        · rename_i h
          subst h
          simp [eq_comm]
        · rename_i hhost
          simp only [h8, h16, h32, hhost, and_false, or_false, reduceCtorEq]

/-- Settles O4: the launch is what the decoder says. -/
theorem stepRunsTheDecodedCommand : Obligations.StepRunsTheDecodedCommand := by
  unfold Obligations.StepRunsTheDecodedCommand
  intro s b i rest hb h hd _
  rw [step_write_cmd hb h, writeCmd, hd]

/-- Settles O5: `busyAccess` serves `STATUS`, drops writes and refuses the rest. -/
theorem accessesWhileBusy : Obligations.AccessesWhileBusy := by
  unfold Obligations.AccessesWhileBusy
  intro s a rest hb h
  rw [step_access_busy hb h]
  refine ⟨?_, ?_, ?_⟩
  · rintro width off v rfl
    rfl
  · rintro rfl
    rfl
  · rintro width off hne rfl
    rw [busyAccess, if_neg (by tauto), served]

/-- Settles O6: every command is issued in the same way, and that is dropped while busy. -/
theorem noCommandStartsWhileBusy : Obligations.NoCommandStartsWhileBusy := by
  unfold Obligations.NoCommandStartsWhileBusy
  intro i s hb
  rw [exec_eq, issue_busy hb]

/-! ## `STATUS` -/

theorem flagBit_getLsbD (b : Bool) : (flagBit b).getLsbD 0 = b := by cases b <;> rfl

theorem resultBit_getLsbD (r : OpResult) : (resultBit r).getLsbD 0 = decide (r = .failure) := by
  cases r <;> rfl

/-- The lowest bit of a byte that ends in one bit, and the bits above it. -/
theorem append_bit_getLsbD_zero {w : Nat} (x : BitVec w) (b : BitVec 1) :
    (x ++ b).getLsbD 0 = b.getLsbD 0 := by
  rw [BitVec.getLsbD_append, if_pos Nat.one_pos]

theorem append_bit_getLsbD_succ {w : Nat} (x : BitVec w) (b : BitVec 1) (k : Nat) :
    (x ++ b).getLsbD (k + 1) = x.getLsbD k := by
  rw [BitVec.getLsbD_append, if_neg (by omega), Nat.add_sub_cancel]

theorem statusByte_busy (s : State) : (statusByte s).getLsbD 0 = s.busy :=
  (append_bit_getLsbD_zero ..).trans (flagBit_getLsbD _)

theorem statusByte_done (s : State) : (statusByte s).getLsbD 1 = s.done :=
  (append_bit_getLsbD_succ ..).trans <| (append_bit_getLsbD_zero ..).trans (flagBit_getLsbD _)

theorem statusByte_result (s : State) : (statusByte s).getLsbD 2 = decide (s.result = .failure) :=
  (append_bit_getLsbD_succ ..).trans <| (append_bit_getLsbD_succ ..).trans <|
    (append_bit_getLsbD_zero ..).trans (resultBit_getLsbD _)

theorem statusByte_inframe (s : State) : (statusByte s).getLsbD 3 = s.inframe :=
  (append_bit_getLsbD_succ ..).trans <| (append_bit_getLsbD_succ ..).trans <|
    (append_bit_getLsbD_succ ..).trans <| (append_bit_getLsbD_zero ..).trans (flagBit_getLsbD _)

theorem statusByte_inited (s : State) : (statusByte s).getLsbD 4 = s.inited :=
  (append_bit_getLsbD_succ ..).trans <| (append_bit_getLsbD_succ ..).trans <|
    (append_bit_getLsbD_succ ..).trans <| (append_bit_getLsbD_succ ..).trans <|
    (append_bit_getLsbD_zero ..).trans (flagBit_getLsbD _)

theorem statusByte_above (s : State) (k : Nat) : (statusByte s).getLsbD (k + 5) = false := by
  have h : (statusByte s).getLsbD (k + 5) = (0 : BitVec 3).getLsbD k :=
    (append_bit_getLsbD_succ ..).trans <| (append_bit_getLsbD_succ ..).trans <|
      (append_bit_getLsbD_succ ..).trans <| (append_bit_getLsbD_succ ..).trans <|
      append_bit_getLsbD_succ ..
  rw [h, BitVec.ofNat_eq_ofNat, BitVec.getLsbD_zero]

/-- Settles O7: the byte is a concatenation of single bits under three zeros. -/
theorem statusShowsTheFlags : Obligations.StatusShowsTheFlags := by
  unfold Obligations.StatusShowsTheFlags
  refine ⟨by decide, fun s => ⟨statusByte_busy s, statusByte_done s, statusByte_result s,
    statusByte_inframe s, statusByte_inited s, ?_⟩⟩
  ext i hi
  rw [BitVec.getElem_extractLsb', Nat.add_comm, statusByte_above]
  simp

/-! ## Registers while idle -/

/-- Settles O8: each register at its own width, through `readAt`. -/
theorem idleReadsGiveTheRegisters : Obligations.IdleReadsGiveTheRegisters := by
  unfold Obligations.IdleReadsGiveTheRegisters
  intro s a v rest hb h hcase
  rcases hcase with ⟨rfl, rfl⟩ | ⟨rfl, rfl⟩ | ⟨rfl, hw, rfl⟩ | ⟨rfl, rfl⟩ | ⟨rfl, hw, rfl⟩ | ⟨rfl, hw, rfl⟩ |
    ⟨rfl, hw, rfl⟩ | ⟨rfl, hw, rfl⟩ | ⟨rfl, rfl⟩ | ⟨rfl, hw, rfl⟩
  all_goals refine step_read_value hb h (by simp [widthAt]) ?_
  · rfl
  · rfl
  · simp [readAt, readHeld, hw]
  · rfl
  · simp [readAt, readHeld, hw]
  · simp [readAt, readHeld, hw]
  · simp [readAt, readHeld, hw]
  · simp [readAt, readHeld, hw]
  · rfl
  · simp [readAt, readHeld, hw]

/-- Settles O9: each register at its own width, through `writeAt`. -/
theorem idleWritesReachTheOperands : Obligations.IdleWritesReachTheOperands := by
  unfold Obligations.IdleWritesReachTheOperands
  intro s rest hb
  refine ⟨?_, ?_, ?_, ?_, ?_, ?_, ?_⟩ <;> intro v h
  case refine_5 =>
    rcases h with h | h | h <;> exact step_write_idle hb h (by decide) rfl
  all_goals
    rw [step_write_idle hb h (by decide) rfl]
    simp [writeAt, setData]

/-- Settles O10: what is not in the register map has no width that `widthAt` would accept, and is no write
to `CMD`. -/
theorem illFormedAccessesAreRefused : Obligations.IllFormedAccessesAreRefused := by
  unfold Obligations.IllFormedAccessesAreRefused
  intro s a rest hb h ha
  cases a with
  | rd width off =>
    have hw : widthAt s.hostAw off ≠ some width := fun hw =>
      absurd ((widthAt_eq_some_iff ..).1 hw) (by simpa [Access.wellFormed] using ha)
    rw [step_access_idle hb h rfl, idleAccess, if_neg hw, served]
  | wr width off v =>
    have hw : widthAt s.hostAw off ≠ some width := fun hw =>
      absurd ((widthAt_eq_some_iff ..).1 hw) (by simpa [Access.wellFormed] using ha)
    have hcmd : commandOf (.wr width off v) = none := by
      rw [commandOf, if_neg]
      rintro ⟨rfl, rfl⟩
      exact hw rfl
    rw [step_access_idle hb h hcmd, idleAccess, if_neg hw, served]

/-- A page command whose operands are not all written misses a value. -/
theorem needPage_noValue {s : State}
    (h : s.written.pn = false ∨ s.written.ps = false ∨ s.written.buf = false) :
    ∃ r, needPage s = some (.noValue r) := by
  unfold needPage
  cases hpn : s.written.pn
  · exact ⟨.pn, rfl⟩
  cases hps : s.written.ps
  · exact ⟨.ps, rfl⟩
  cases hbuf : s.written.buf
  · exact ⟨.buf, rfl⟩
  simp [hpn, hps, hbuf] at h

/-- Settles O11: the mark of the register decides, for the host's reads and for what a command requires. -/
theorem registersWithoutValueRefuse : Obligations.RegistersWithoutValueRefuse := by
  unfold Obligations.RegistersWithoutValueRefuse
  intro s rest hb
  refine ⟨?_, ?_, ?_, ?_, ?_, ?_, ?_, ?_⟩
  iterate 6
    · intro hw h
      refine step_read_noValue hb h (by simp [widthAt]) ?_
      simp [readAt, readHeld, hw]
  · intro hw hi hf
    refine exec_missing hb ?_
    simp [missing, needData, needFrame, needInited, needValue, orElse, hw, hi, hf]
  · intro hw
    obtain ⟨r, hr⟩ := needPage_noValue hw
    exact ⟨r, exec_missing hb hr, exec_missing hb hr⟩

/-- Settles O12: every element of reset's state is given. -/
theorem resetLeavesTheBlockIdle : Obligations.ResetLeavesTheBlockIdle := by
  unfold Obligations.ResetLeavesTheBlockIdle
  exact ⟨takeReset_atResetValues State.reset, rfl, rfl, rfl, rfl, rfl, rfl, rfl, rfl, rfl⟩

/-! ## What a command leaves -/

/-- WRITE_PAGE stands at Success with nothing raised, from INIT on. -/
def NothingRaised (l : List Fault) (s : State) : Prop := s.result = .success ∧ s.raised = l

theorem NothingRaised.gaps {l : List Fault} {s t : State} (h : NothingRaised l s) (hg : Gaps s t) :
    NothingRaised l t := by
  rw [hg.eq]
  exact h

/-- After a reset the result is Success and the record is at its reset value. -/
def SuccessByReset (s : State) : Prop := s.result = .success ∧ atResetValues s

theorem takeReset_successByReset (s : State) : SuccessByReset (takeReset s) :=
  ⟨rfl, takeReset_atResetValues s⟩

theorem transmit_nothingRaised {l : List Fault} (e : Outbound) {s : State} (h : NothingRaised l s) :
    (transmit e s).Ends (NothingRaised l) (fun _ => False) (NothingRaised l) SuccessByReset := by
  refine transmit_ends (fun x t hw => ?_) (fun r t hw => ?_)
    (fun _ _ _ => takeReset_successByReset _)
  all_goals rw [hw.eq]
  · exact ⟨by simp, by simpa using h.2⟩
  · exact ⟨by simpa using h.1, by simpa using h.2⟩

/-- No primitive of WRITE_PAGE raises or fails. -/
theorem nothingRaised_carries (l : List Fault) :
    Carries (NothingRaised l) (NothingRaised l) (fun _ => False) (NothingRaised l) SuccessByReset where
  seqP _ _ h := h
  seqQ _ _ h := h
  idxQ _ _ h := h
  gapP _ _ h hg := h.gaps hg
  gapQ _ _ h hg := h.gaps hg
  resetP _ _ _ _ := takeReset_successByReset _
  resetQ _ _ _ _ := takeReset_successByReset _
  start _ h := transmit_nothingRaised _ h
  stop _ h := transmit_nothingRaised _ h
  send _ _ h := transmit_nothingRaised _ h

/-- Settles O32: INIT leaves Success, every outbound primitive keeps or sets it, and none raises. -/
theorem writePageNeverFails : Obligations.WritePageNeverFails := by
  unfold Obligations.WritePageNeverFails
  intro s t hb h
  have hbegins : Begins (·.raised = s.raised) (NothingRaised s.raised) SuccessByReset
      (launch .writePage s) :=
    ⟨rfl, fun u v hu hg => by rw [hg.eq]; exact hu,
      fun _ _ _ _ => takeReset_successByReset _, fun _ hu => ⟨rfl, hu⟩⟩
  rcases (writePageBody_ends (nothingRaised_carries s.raised) hbegins).outcome (exec_next hb h).2
    with ⟨u, ⟨hres, hraised⟩, rfl⟩ | ⟨u, hfalse, -⟩ | ⟨hres, hraised⟩ | ⟨hres, hreset⟩
  · exact ⟨hres, .inl hraised⟩
  · exact hfalse.elim
  · exact ⟨hres, .inl hraised⟩
  · exact ⟨hres, .inr hreset⟩

/-- However an outbound primitive ends, no earlier transfer is outstanding. -/
theorem transmit_forgetsLate (e : Outbound) (s : State) :
    (transmit e s).Ends (·.late = false) (fun _ => False) (·.late = false) (·.late = false) := by
  refine transmit_ends (fun x t hw => ?_) (fun r t hw => ?_) (fun _ _ _ => rfl)
  all_goals rw [hw.eq]; simp

/-- Settles O40: the mark decides what a late completion does, and the launch of an outbound primitive
clears it. -/
theorem lateCompletionSetsDoneOnce : Obligations.LateCompletionSetsDoneOnce := by
  unfold Obligations.LateCompletionSetsDoneOnce
  refine ⟨fun s rest h => ?_, fun i s t hi hb h => ?_⟩
  · rw [step_cons h, arrive]
    exact ⟨fun hl => by simp [completeLate, hl], fun hl => by simp [completeLate, hl]⟩
  · have hends : (body i s (launch i s)).Ends (·.late = false) (fun _ => False) (·.late = false)
        (·.late = false) := by
      rcases hi with rfl | rfl | rfl
      · exact transmit_forgetsLate .start _
      · exact transmit_forgetsLate .stop _
      · exact transmit_forgetsLate (.byte s.data) _
    rcases hends.outcome (exec_next hb h).2 with ⟨u, hu, rfl⟩ | ⟨u, hfalse, -⟩ | ht | ht
    · exact hu
    · exact hfalse.elim
    · exact ht
    · exact ht

/-! ## Canonical memories -/

/-- Canonical memories that start at the same address, and read the same, are the same list. -/
theorem Memory.eq_of_read_eq {size : Nat} {m n : Memory} {low : Nat}
    (hm : Memory.wfFrom size low m = true) (hn : Memory.wfFrom size low n = true)
    (h : ∀ a < size, Memory.read m a = Memory.read n a) : m = n := by
  induction m generalizing low n with
  | nil =>
    cases n with
    | nil => rfl
    | cons d n =>
      obtain ⟨-, hlt, hne, -⟩ := (Memory.wfFrom_cons ..).1 hn
      exact absurd (h d.1 hlt).symm (by simpa [Memory.read] using hne)
  | cons c m ih =>
    obtain ⟨-, hclt, hcne, hm'⟩ := (Memory.wfFrom_cons ..).1 hm
    cases n with
    | nil => exact absurd (h c.1 hclt) (by simpa [Memory.read] using hcne)
    | cons d n =>
      obtain ⟨-, hdlt, hdne, hn'⟩ := (Memory.wfFrom_cons ..).1 hn
      have hkey : c.1 = d.1 := by
        rcases Nat.lt_trichotomy c.1 d.1 with hlt | heq | hlt
        · refine absurd (h c.1 hclt) ?_
          simpa [Memory.read, hlt.ne', Memory.read_of_lt hn' (by omega : c.1 < d.1 + 1)] using hcne
        · exact heq
        · refine absurd (h d.1 hdlt).symm ?_
          simpa [Memory.read, hlt.ne', Memory.read_of_lt hm' (by omega : d.1 < c.1 + 1)] using hdne
      have hval : c.2 = d.2 := by simpa [Memory.read, hkey] using h c.1 hclt
      have htail : m = n := by
        refine ih hm' (hkey ▸ hn') fun a ha => ?_
        by_cases hac : a < c.1 + 1
        · rw [Memory.read_of_lt hm' hac, Memory.read_of_lt hn' (hkey ▸ hac)]
        · simpa [Memory.read, (show c.1 ≠ a by omega), (show d.1 ≠ a by omega)] using h a ha
      rw [Prod.ext hkey hval, htail]

/-- Settles O42: two canonical lists cannot differ first in an address or in a byte. -/
theorem canonicalMemoriesAreEqualData : Obligations.CanonicalMemoriesAreEqualData := by
  unfold Obligations.CanonicalMemoriesAreEqualData
  exact fun _ _ _ hm hn => Memory.eq_of_read_eq hm hn

end Sys2Proof.Machine
end

section
/-! SUPPORT. The family of 10_state.md: operations that look neither at the schedule nor at what the host has
read, and what polling during a command changes. -/

namespace Sys2Proof.Machine

open Sys2Proof.Safety

/-! ## Operations that do not look at the schedule -/

/-- The state with another schedule, and other values read by the host. -/
def beside (env : List Happening) (reads : List Nat) (s : State) : State :=
  { s with env := env, hostReads := reads }

/-- An operation that looks neither at the schedule nor at the values the host has read, and keeps both. -/
def Blind (f : State → State) : Prop :=
  ∀ env reads s, f (beside env reads s) = beside env reads (f s)

theorem Blind.env {f : State → State} (hf : Blind f) (s : State) : (f s).env = s.env := by
  have h : f s = beside s.env s.hostReads (f s) := hf s.env s.hostReads s
  exact (congrArg State.env h).trans rfl

theorem Blind.hostReads {f : State → State} (hf : Blind f) (s : State) :
    (f s).hostReads = s.hostReads := by
  have h : f s = beside s.env s.hostReads (f s) := hf s.env s.hostReads s
  exact (congrArg State.hostReads h).trans rfl

theorem reachIf_blind (r : Bool) (e : Outbound) : Blind (reachIf r e) := by
  intro env reads s
  rw [reachIf_eq, reachIf_dev, reachIf_eq r e s, reachIf_dev]
  rfl

theorem eventOf_beside (e : Outbound) (x : Answer) (env : List Happening) (reads : List Nat) (s : State) :
    eventOf e x (beside env reads s) = eventOf e x s := by
  cases e with
  | byte b => cases x <;> rfl
  | start => rfl
  | stop => rfl

theorem deliver_blind (e : Outbound) (x : Answer) : Blind (deliver e x) := by
  intro env reads s
  rw [deliver, eventOf_beside, reachIf_blind]
  rfl

theorem markComplete_blind (e : Outbound) : Blind (markComplete e) := by
  intro env reads s
  cases e <;> rfl

theorem devRead_blind : Blind devRead := by
  intro env reads s
  rw [devRead_eq, devRead_dev, devRead_draws, devRead_eq s, devRead_dev, devRead_draws]
  rfl

theorem readIf_blind (r : Bool) : Blind (readIf r) := by
  cases r
  · exact fun _ _ _ => rfl
  · exact devRead_blind

theorem inbound_blind (x : Answer) : Blind (inbound x) := by
  cases x
  · exact devRead_blind
  · exact fun _ _ _ => rfl

theorem acceptByte_blind (k : AckFlag) (x : Answer) (d : Nat) : Blind (acceptByte k x d) := by
  intro env reads s
  have hb : inboundByte x (beside env reads s) = inboundByte x s := by cases x <;> rfl
  rw [acceptByte, hb, inbound_blind]
  rfl

theorem takeBusTimeout_blind (i : Option Word) (k : Ack) (c : BitVec 32) : Blind (takeBusTimeout i k c) :=
  fun _ _ _ => rfl

theorem takeReset_blind : Blind takeReset := fun _ _ _ => rfl

theorem scribble_blind (n a : Nat) : Blind (scribble n a) := by
  intro env reads s
  induction n generalizing a s with
  | zero => rfl
  | succ n ih => exact ih (a + 1) (drawn (memWrite a (anyByte s) s))

theorem completeLate_blind : Blind completeLate := by
  intro env reads s
  by_cases h : s.late = true <;> simp [completeLate, beside, h]

/-! ## How a primitive ends, from how its wait does -/

/-- The end of an outbound primitive, from the end of its wait. -/
def outboundEnd (e : Outbound) : Waited → Run
  | .complete _ x t => .ended (markComplete e (deliver e x t))
  | .never r t => .hung (emit (hungEventOf e) (reachIf r e t))
  | .reset r t => .reset (takeReset (reachIf r e t))
  | .refused r => .refused r

theorem transmit_eq (e : Outbound) (s : State) : transmit e s = outboundEnd e (await (clearDone s)) := by
  rw [transmit]
  cases await (clearDone s) <;> rfl

/-- The end of READ_BYTE, from the end of its wait. -/
def inboundEnd (k : AckFlag) (i : Option Word) : Waited → Run
  | .complete d x t =>
    if (poll t.retryBudget (some d)).2 then .ended (acceptByte k x (poll t.retryBudget (some d)).1 t)
    else .failed (takeBusTimeout i (ackOf k) (BitVec.ofNat 32 (poll t.retryBudget (some d)).1)
      { inbound x t with late := true })
  | .never r t =>
    .failed (takeBusTimeout i (ackOf k) (BitVec.ofNat 32 (poll t.retryBudget none).1) (readIf r t))
  | .reset r t => .reset (takeReset (readIf r t))
  | .refused r => .refused r

theorem receive_eq (k : AckFlag) (i : Option Word) (s : State) :
    receive k i s = inboundEnd k i (await (requested k s)) := by
  rw [receive, requested]
  cases await (clearDone { s with ackf := k }) <;> rfl

/-! ## Polling during a command -/

/-- The host has read odd values since it had read `reads`, and all that is still to happen is harmless. -/
def Polled (reads : List Nat) (s : State) : Prop :=
  (∀ h ∈ s.env, harmless h = true) ∧
    ∃ values, s.hostReads = reads ++ values ∧ ∀ v ∈ values, v % 2 = 1

/-- The same state where the host has not polled, and will not. -/
def quiet (reads : List Nat) (s : State) : State := beside (s.env.filter isReply) reads s

/-- `u` is `s` without the polling. -/
def Agrees (reads : List Nat) (s u : State) : Prop := Polled reads s ∧ u = quiet reads s

/-- So it is after a primitive, inside a command. -/
def AgreesBusy (reads : List Nat) (s u : State) : Prop := s.busy = true ∧ Agrees reads s u

/-- So it is in a gap before a bus primitive, which will clear `DONE` and forget an earlier transfer. -/
def AgreesNearly (reads : List Nat) (s u : State) : Prop :=
  s.busy = true ∧ Polled reads s ∧ clearDone u = quiet reads (clearDone s)

variable {reads : List Nat}

theorem AgreesBusy.nearly {s u : State} (h : AgreesBusy reads s u) : AgreesNearly reads s u := by
  obtain ⟨hb, hp, rfl⟩ := h
  exact ⟨hb, hp, rfl⟩

theorem Polled.blind {s : State} {f : State → State} (hf : Blind f) (h : Polled reads s) :
    Polled reads (f s) := by
  rw [Polled, hf.env, hf.hostReads]
  exact h

theorem Agrees.blind {s u : State} {f : State → State} (hf : Blind f) (h : Agrees reads s u) :
    Agrees reads (f s) (f u) := by
  obtain ⟨hp, rfl⟩ := h
  refine ⟨hp.blind hf, ?_⟩
  rw [quiet, quiet, hf, hf.env]

theorem AgreesBusy.blind {s u : State} {f : State → State} (hf : Blind f)
    (hb : (f s).busy = s.busy) (h : AgreesBusy reads s u) : AgreesBusy reads (f s) (f u) :=
  ⟨hb.trans h.1, h.2.blind hf⟩

/-- An update that neither looks at `DONE` nor at an earlier transfer. -/
theorem AgreesNearly.blind {s u : State} {f : State → State} (hf : Blind f)
    (hb : (f s).busy = s.busy) (hc : ∀ v, clearDone (f v) = f (clearDone v))
    (h : AgreesNearly reads s u) : AgreesNearly reads (f s) (f u) := by
  obtain ⟨hbusy, hp, hu⟩ := h
  refine ⟨hb.trans hbusy, hp.blind hf, ?_⟩
  rw [hc, hc, hu, quiet, quiet, hf, hf.env]

/-- An allowed access while `BUSY = 1` changes nothing, or gives the host an odd value. -/
theorem busyAccess_allowed {a : Access} {s : State} (ha : allowedWhileBusy a = true)
    (hb : s.busy = true) : ∃ values, busyAccess a s = .ok (beside s.env (s.hostReads ++ values) s) ∧
      ∀ v ∈ values, v % 2 = 1 := by
  cases a with
  | wr width off v => exact ⟨[], by rw [List.append_nil]; rfl, by simp⟩
  | rd width off =>
    simp only [allowedWhileBusy, Bool.and_eq_true, decide_eq_true_eq] at ha
    refine ⟨[(statusByte s).toNat], ?_, ?_⟩
    · rw [busyAccess, if_pos ha]
      rfl
    · have hbit := (statusByte_busy s).trans hb
      rw [BitVec.getLsbD, Nat.testBit_zero, decide_eq_true_eq] at hbit
      simpa using hbit

theorem filter_isReply_cons_of_not {x : Happening} (hs : List Happening) (hx : isReply x = false) :
    (x :: hs).filter isReply = hs.filter isReply := List.filter_cons_of_neg (by simp [hx])

/-- Behind the values `ws` the host has read odd ones only, before as well as after `values` more. -/
theorem odd_append {ws values : List Nat} {r : List Nat}
    (h : ∃ vs, ws = r ++ vs ∧ ∀ v ∈ vs, v % 2 = 1) (hv : ∀ v ∈ values, v % 2 = 1) :
    ∃ vs, ws ++ values = r ++ vs ∧ ∀ v ∈ vs, v % 2 = 1 := by
  obtain ⟨vs, rfl, hvs⟩ := h
  refine ⟨vs ++ values, List.append_assoc .., fun v hmem => ?_⟩
  exact (List.mem_append.1 hmem).elim (hvs v) (hv v)

/-- A wait over harmless happenings ends as it does without the polling. -/
theorem awaitOver_agrees {hs : List Happening} {s : State} (e : List Happening)
    (hh : ∀ h ∈ hs, harmless h = true) (hb : s.busy = true)
    (hr : ∃ values, s.hostReads = reads ++ values ∧ ∀ v ∈ values, v % 2 = 1) :
    ∃ r t u, awaitOver hs s = conclude r t ∧
      awaitOver (hs.filter isReply) (beside e reads s) = conclude r u ∧ AgreesBusy reads t u := by
  induction hs generalizing s with
  | nil => exact ⟨_, _, _, rfl, rfl, hb, ⟨by simp, hr⟩, rfl⟩
  | cons x hs ih =>
    obtain ⟨hx, hrest⟩ := List.forall_mem_cons.1 hh
    have hskip : ∀ a, allowedWhileBusy a = true → ∃ v, busyAccess a s = .ok v ∧ ∃ r t u,
        awaitOver hs v = conclude r t ∧
        awaitOver (hs.filter isReply) (beside e reads s) = conclude r u ∧ AgreesBusy reads t u := by
      intro a ha
      obtain ⟨values, hok, hodd⟩ := busyAccess_allowed ha hb
      exact ⟨_, hok, ih (s := beside s.env (s.hostReads ++ values) s) hrest hb (odd_append hr hodd)⟩
    cases x with
    | reply r => exact ⟨r, _, _, rfl, rfl, hb, ⟨hrest, hr⟩, rfl⟩
    | access a =>
      rw [filter_isReply_cons_of_not hs rfl]
      obtain ⟨v, hok, hv⟩ := hskip a hx
      rw [awaitOver, hok]
      exact hv
    | between x =>
      rw [filter_isReply_cons_of_not hs rfl]
      cases x with
      | access a =>
        obtain ⟨v, hok, hv⟩ := hskip a hx
        rw [awaitOver, hok]
        exact hv
      | late => exact ih hrest hb hr
      | go => exact ih hrest hb hr
      | reset => exact absurd hx Bool.false_ne_true

theorem await_agrees {s u : State} (h : AgreesBusy reads s u) :
    ∃ r t v, await s = conclude r t ∧ await u = conclude r v ∧ AgreesBusy reads t v := by
  obtain ⟨hb, ⟨hh, hr⟩, rfl⟩ := h
  exact awaitOver_agrees _ hh hb hr

/-! ## Two runs, with and without the polling -/

/-- Two runs that end in the same way: completed in states that `E` relates, or otherwise in states that
`D` relates. Neither is refused. -/
def Run.Both (E D : State → State → Prop) : Run → Run → Prop
  | .ended s, .ended u => E s u
  | .failed s, .failed u => D s u
  | .hung s, .hung u => D s u
  | .reset s, .reset u => D s u
  | _, _ => False

theorem Run.Both.andThen {E E' D : State → State → Prop} {x y : Run} {f g : State → Run}
    (h : x.Both E D y) (hfg : ∀ s u, E s u → (f s).Both E' D (g u)) :
    (x.andThen f).Both E' D (y.andThen g) := by
  cases x <;> cases y <;> simp only [Run.Both] at h
  · exact hfg _ _ h
  all_goals exact h

theorem outboundEnd_agrees (e : Outbound) (r : Reply) {s u : State} (h : AgreesBusy reads s u) :
    (outboundEnd e (conclude r s)).Both (AgreesBusy reads) (Agrees reads)
      (outboundEnd e (conclude r u)) := by
  cases r with
  | complete d x => exact (h.blind (deliver_blind e x) (by simp)).blind (markComplete_blind e) (by simp)
  | never r => exact (h.2.blind (reachIf_blind r e)).blind (f := emit (hungEventOf e)) (fun _ _ _ => rfl)
  | reset r => exact (h.2.blind (reachIf_blind r e)).blind takeReset_blind

theorem inboundEnd_agrees (k : AckFlag) (i : Option Word) (r : Reply) {s u : State}
    (h : AgreesBusy reads s u) :
    (inboundEnd k i (conclude r s)).Both (AgreesBusy reads) (Agrees reads)
      (inboundEnd k i (conclude r u)) := by
  have hbudget : u.retryBudget = s.retryBudget := by rw [h.2.2]; rfl
  cases r with
  | complete d x =>
    simp only [conclude, inboundEnd, hbudget]
    split
    · exact h.blind (acceptByte_blind k x _) (by simp)
    · exact ((h.2.blind (inbound_blind x)).blind (f := fun v => { v with late := true })
        (fun _ _ _ => rfl)).blind (takeBusTimeout_blind i _ _)
  | never r =>
    simp only [conclude, inboundEnd, hbudget]
    exact (h.2.blind (readIf_blind r)).blind (takeBusTimeout_blind i _ _)
  | reset r => exact (h.2.blind (readIf_blind r)).blind takeReset_blind

theorem transmit_agrees (e : Outbound) {s u : State} (h : AgreesNearly reads s u) :
    (transmit e s).Both (AgreesBusy reads) (Agrees reads) (transmit e u) := by
  obtain ⟨r, t, v, hs, hu, htv⟩ := await_agrees (s := clearDone s) (u := clearDone u) h
  rw [transmit_eq, transmit_eq, hs, hu]
  exact outboundEnd_agrees e r htv

theorem sendByte_agrees (b : Byte) {s u : State} (h : AgreesNearly reads s u) :
    (sendByte b s).Both (AgreesBusy reads) (Agrees reads) (sendByte b u) :=
  transmit_agrees (.byte b) (h.blind (f := setData b) (fun _ _ _ => rfl) rfl (fun _ => rfl))

theorem receive_agrees (k : AckFlag) (i : Option Word) {s u : State} (h : AgreesNearly reads s u) :
    (receive k i s).Both (AgreesBusy reads) (Agrees reads) (receive k i u) := by
  have hk : AgreesNearly reads { s with ackf := k } { u with ackf := k } :=
    h.blind (f := fun v => { v with ackf := k }) (fun _ _ _ => rfl) rfl (fun _ => rfl)
  obtain ⟨r, t, v, hs, hu, htv⟩ := await_agrees (s := requested k s) (u := requested k u) hk
  rw [receive_eq, receive_eq, hs, hu]
  exact inboundEnd_agrees k i r htv

/-! ## The page commands, with and without the polling -/

theorem completeLate_nearly {s u : State} (h : AgreesNearly reads s u) :
    AgreesNearly reads (completeLate s) u := by
  unfold completeLate
  split <;> exact h

/-- Harmless interludes end, and leave a state that a bus primitive does not tell from the one before. -/
theorem attendOver_nearly {hs : List Happening} {s u : State}
    (h : AgreesNearly reads (beside hs s.hostReads s) u) :
    ∃ t, attendOver hs s = .ended t ∧ AgreesNearly reads t u := by
  induction hs generalizing s with
  | nil => exact ⟨_, rfl, h⟩
  | cons x hs ih =>
    cases x with
    | access a => exact ⟨_, rfl, h⟩
    | reply r => exact ⟨_, rfl, h⟩
    | between x =>
      obtain ⟨hb, ⟨hh, hr⟩, hu⟩ := h
      obtain ⟨hx, hrest⟩ := List.forall_mem_cons.1 hh
      have hnext : AgreesNearly reads (beside hs s.hostReads s) u := ⟨hb, ⟨hrest, hr⟩, hu⟩
      cases x with
      | access a =>
        obtain ⟨values, hok, hodd⟩ := busyAccess_allowed (s := s) hx hb
        rw [attendOver, hok]
        exact ih ⟨hb, ⟨hrest, odd_append hr hodd⟩, hu⟩
      | late =>
        have hlate := completeLate_nearly hnext
        rw [completeLate_blind, ← completeLate_blind.hostReads s] at hlate
        exact ih hlate
      | go => exact ⟨_, rfl, hnext⟩
      | reset => exact absurd hx Bool.false_ne_true

/-- Without the polling there are no interludes. -/
theorem attend_quiet {s u : State} (h : AgreesNearly reads s u) : attend u = .ended u := by
  have henv : u.env = s.env.filter isReply := congrArg State.env h.2.2
  rw [attend]
  cases hu : u.env with
  | nil =>
    rw [attendOver, ← hu]
  | cons x hs =>
    have hx : isReply x = true := by
      have hmem : x ∈ s.env.filter isReply := by rw [← henv, hu]; exact List.mem_cons_self ..
      exact (List.mem_filter.1 hmem).2
    cases x with
    | reply r => rw [attendOver, ← hu]
    | access a => exact absurd hx Bool.false_ne_true
    | between x => exact absurd hx Bool.false_ne_true

/-- A primitive of a page command with the interludes before it, and without. -/
theorem paced_agrees {E D : State → State → Prop} {p q : State → Run} {s u : State}
    (h : AgreesNearly reads s u) (hp : ∀ t, AgreesNearly reads t u → (p t).Both E D (q u)) :
    (paced p s).Both E D (paced q u) := by
  obtain ⟨t, hs, ht⟩ := attendOver_nearly (hs := s.env) (s := s) h
  rw [paced, paced, attend_quiet h, attend, hs]
  exact hp t ht

theorem pacedTransmit_agrees (e : Outbound) {s u : State} (h : AgreesNearly reads s u) :
    (paced (transmit e) s).Both (AgreesBusy reads) (Agrees reads) (paced (transmit e) u) :=
  paced_agrees h fun _ => transmit_agrees e

theorem pacedSendByte_agrees (b : Byte) {s u : State} (h : AgreesNearly reads s u) :
    (paced (sendByte b) s).Both (AgreesBusy reads) (Agrees reads) (paced (sendByte b) u) :=
  paced_agrees h fun _ => sendByte_agrees b

theorem sendAddress_agrees {s u : State} (h : AgreesNearly reads s u) :
    (sendAddress s).Both (AgreesBusy reads) (Agrees reads) (sendAddress u) := by
  have hinit : (paced initialise (setSeq 1 s)).Both (AgreesNearly reads) (Agrees reads)
      (paced initialise (setSeq 1 u)) :=
    paced_agrees (h.blind (f := setSeq 1) (fun _ _ _ => rfl) rfl (fun _ => rfl)) fun _ ht =>
      ht.blind (f := configure) (fun _ _ _ => rfl) rfl (fun _ => rfl)
  refine hinit.andThen fun r v hr => ?_
  have hr' : AgreesNearly reads (translate (setSeq 2 r)) (translate (setSeq 2 v)) :=
    hr.blind (f := fun w => translate (setSeq 2 w)) (fun _ _ _ => rfl) rfl (fun _ => rfl)
  refine (pacedTransmit_agrees .start hr').andThen fun t v ht => ?_
  refine (pacedSendByte_agrees writeIntent ht.nearly).andThen fun w v hw => ?_
  obtain ⟨hb, hp, rfl⟩ := hw
  refine (pacedSendByte_agrees (highByte w.addr) (AgreesBusy.nearly ⟨hb, hp, rfl⟩)).andThen fun x v hx => ?_
  obtain ⟨hb, hp, rfl⟩ := hx
  exact pacedSendByte_agrees (lowByte x.addr) (AgreesBusy.nearly ⟨hb, hp, rfl⟩)

theorem writeBytes_agrees {n : Nat} {s u : State} (h : AgreesBusy reads s u) :
    (writeBytes n s).Both (AgreesBusy reads) (Agrees reads) (writeBytes n u) := by
  induction n generalizing s u with
  | zero => exact h
  | succ n ih =>
    obtain ⟨hb, hp, rfl⟩ := h
    refine (pacedSendByte_agrees (memRead (byteAddress s) s)
      (AgreesBusy.nearly ⟨hb, hp, rfl⟩)).andThen fun t v ht => ih ?_
    exact ht.blind (f := fun t => setIdx (t.idx + 1) t) (fun _ _ _ => rfl) rfl

theorem abortRead_agrees {n : Nat} {x y : Run} (h : x.Both (AgreesBusy reads) (Agrees reads) y) :
    (abortRead n x).Both (AgreesBusy reads) (Agrees reads) (abortRead n y) := by
  cases x <;> cases y <;> simp only [Run.Both] at h
  case failed.failed s u =>
    have haddr : byteAddress u = byteAddress s := by rw [h.2]; rfl
    simp only [abortRead, haddr]
    exact h.blind (scribble_blind n (byteAddress s))
  all_goals exact h

theorem readBytes_agrees {n : Nat} {s u : State} (h : AgreesBusy reads s u) :
    (readBytes n s).Both (AgreesBusy reads) (Agrees reads) (readBytes n u) := by
  induction n generalizing s u with
  | zero => exact h
  | succ n ih =>
    obtain ⟨hb, hp, rfl⟩ := h
    refine (abortRead_agrees (paced_agrees (AgreesBusy.nearly ⟨hb, hp, rfl⟩) fun _ =>
      receive_agrees (ackByPosition s) (some s.idx))).andThen fun t v ht => ih ?_
    exact ht.blind (f := fun t => setIdx (t.idx + 1) (memWrite (byteAddress t) t.data t))
      (fun _ _ _ => rfl) rfl

theorem writePageBody_agrees {s u : State} (h : AgreesNearly reads s u) :
    (writePageBody s).Both (AgreesBusy reads) (Agrees reads) (writePageBody u) := by
  refine (sendAddress_agrees h).andThen fun t v ht => ?_
  have hps : v.ps = t.ps := by rw [ht.2.2]; rfl
  rw [hps]
  refine (writeBytes_agrees (ht.blind (f := fun t => setIdx 0 (setSeq 3 t)) (fun _ _ _ => rfl) rfl)).andThen
    fun w v hw => ?_
  exact pacedTransmit_agrees .stop (hw.blind (f := setSeq 4) (fun _ _ _ => rfl) rfl).nearly

theorem readPageBody_agrees {s u : State} (h : AgreesNearly reads s u) :
    (readPageBody s).Both (AgreesBusy reads) (Agrees reads) (readPageBody u) := by
  refine (sendAddress_agrees h).andThen fun t v ht => ?_
  refine (pacedTransmit_agrees .stop ht.nearly).andThen fun t v ht => ?_
  refine (pacedTransmit_agrees .start (ht.blind (f := setSeq 3) (fun _ _ _ => rfl) rfl).nearly).andThen
    fun t v ht => ?_
  refine (pacedSendByte_agrees readIntent ht.nearly).andThen fun t v ht => ?_
  have hps : v.ps = t.ps := by rw [ht.2.2]; rfl
  rw [hps]
  refine (readBytes_agrees (ht.blind (f := fun t => setIdx 0 (setSeq 4 t)) (fun _ _ _ => rfl) rfl)).andThen
    fun w v hw => ?_
  exact pacedTransmit_agrees .stop (hw.blind (f := setSeq 5) (fun _ _ _ => rfl) rfl).nearly

/-! ## Every command, with and without the polling -/

/-- What a command runs, with and without the polling. -/
theorem body_agrees (i : Instr) (d : State) {s u : State} (h : AgreesBusy reads s u) :
    (body i d s).Both (AgreesBusy reads) (Agrees reads) (body i d u) := by
  cases i with
  | init => exact h.blind (f := configure) (fun _ _ _ => rfl) rfl
  | start => exact transmit_agrees .start h.nearly
  | stop => exact transmit_agrees .stop h.nearly
  | writeByte => exact sendByte_agrees d.data h.nearly
  | readByte k => exact receive_agrees k none h.nearly
  | readPage => exact readPageBody_agrees h.nearly
  | writePage => exact writePageBody_agrees h.nearly

/-- What a run that answers a next state answers with the polling. -/
theorem Run.Both.outcome {x y : Run} {u : State} (h : x.Both (AgreesBusy reads) (Agrees reads) y)
    (hy : y.outcome = .next u) : ∃ t, x.outcome = .next t ∧ Agrees reads t u := by
  have hfinish : Blind finish := fun _ _ _ => rfl
  cases x <;> cases y <;> simp only [Run.Both] at h <;> cases hy
  · exact ⟨_, rfl, h.2.blind hfinish⟩
  · exact ⟨_, rfl, h.blind hfinish⟩
  · exact ⟨_, rfl, h⟩
  · exact ⟨_, rfl, h⟩

/-- What a command requires does not depend on the schedule, nor on the values the host has read. -/
theorem missing_beside (i : Instr) (env : List Happening) (ws : List Nat) (s : State) :
    missing i (beside env ws s) = missing i s := by cases i <;> rfl

/-- Settles O57: a command with polling and the same command without it agree at every wait, and so at the
end. -/
theorem pollingChangesNothingElse : Obligations.PollingChangesNothingElse := by
  unfold Obligations.PollingChangesNothingElse
  intro i s u hb hharmless h
  obtain ⟨hm, hbody⟩ := exec_next (s := beside (s.env.filter isReply) s.hostReads s) hb h
  rw [missing_beside] at hm
  have hstart : AgreesBusy s.hostReads (launch i s)
      (launch i (beside (s.env.filter isReply) s.hostReads s)) :=
    ⟨rfl, ⟨hharmless, [], (List.append_nil _).symm, by simp⟩, rfl⟩
  have hdata : body i (beside (s.env.filter isReply) s.hostReads s) = body i s := by cases i <;> rfl
  rw [hdata] at hbody
  obtain ⟨t, ht, ⟨-, values, hreads, hodd⟩, hu⟩ := (body_agrees i s hstart).outcome hbody
  exact ⟨t, values, (exec_ready hb hm).trans ht, hu, hreads, hodd⟩

end Sys2Proof.Machine
end

section
/-! SUPPORT. The family of 10_state.md: how far a page command has come when a given number of its handshakes
are complete, and how a host access is served there. -/

namespace Sys2Proof.Machine

open Sys2Proof.Safety

/-! ## A host access in a wait and in a gap -/

/-- An access while busy adds the same values to what the host has read, or is refused, whatever the
schedule behind it. -/
theorem busyAccess_beside (a : Access) (s : State) :
    (∃ values, ∀ env reads, busyAccess a (beside env reads s) = .ok (beside env (reads ++ values) s)) ∨
    ∃ r, ∀ env reads, busyAccess a (beside env reads s) = .error r := by
  cases a with
  | wr width off v => exact .inl ⟨[], fun env reads => by rw [List.append_nil]; rfl⟩
  | rd width off =>
    by_cases h : width = 8 ∧ off = 0x01
    · exact .inl ⟨[(statusByte s).toNat], fun env reads => by rw [busyAccess, if_pos h]; rfl⟩
    · exact .inr ⟨.readWhileBusy, fun env reads => by rw [busyAccess, if_neg h]⟩

/-- The wait over a list of happenings does not look at the schedule. -/
theorem awaitOver_env (hs env env' : List Happening) (reads : List Nat) (s : State) :
    awaitOver hs (beside env reads s) = awaitOver hs (beside env' reads s) := by
  induction hs generalizing reads with
  | nil => rfl
  | cons x hs ih =>
    cases x with
    | reply r => rfl
    | access a =>
      rcases busyAccess_beside a s with ⟨values, h⟩ | ⟨r, h⟩ <;> rw [awaitOver, awaitOver, h, h]
      exact ih _
    | between x =>
      cases x with
      | access a =>
        rcases busyAccess_beside a s with ⟨values, h⟩ | ⟨r, h⟩ <;> rw [awaitOver, awaitOver, h, h]
        exact ih _
      | late => exact ih reads
      | go => exact ih reads
      | reset => rfl

/-- Neither do the interludes over one. -/
theorem attendOver_env (hs env env' : List Happening) (reads : List Nat) (s : State) :
    attendOver hs (beside env reads s) = attendOver hs (beside env' reads s) := by
  induction hs generalizing reads s with
  | nil => rfl
  | cons x hs ih =>
    cases x with
    | reply r => rfl
    | access a => rfl
    | between x =>
      cases x with
      | access a =>
        rcases busyAccess_beside a s with ⟨values, h⟩ | ⟨r, h⟩ <;> rw [attendOver, attendOver, h, h]
        exact ih _ s
      | late =>
        rw [attendOver, attendOver, completeLate_blind, completeLate_blind]
        exact ih reads _
      | go => rfl
      | reset => rfl

/-- How run `f` from `s`, with `before` still to happen first, serves a host access at `place`: a write is
dropped, a read of `STATUS` gives `status`, any other read is refused. -/
def Serves (f : State → Run) (s : State) (status : Byte) (place : Access → Happening)
    (before behind : List Happening) : Prop :=
  ∀ reads,
    (∀ width off v, f (beside (before ++ place (.wr width off v) :: behind) reads s) =
      f (beside (before ++ behind) reads s)) ∧
    f (beside (before ++ place readStatus :: behind) reads s) =
      f (beside (before ++ behind) (reads ++ [status.toNat]) s) ∧
    (∀ width off, width ≠ 8 ∨ off ≠ 0x01 →
      f (beside (before ++ place (.rd width off) :: behind) reads s) = .refused .readWhileBusy)

theorem busyAccess_refused {width : Nat} {off : BitVec 5} (h : width ≠ 8 ∨ off ≠ 0x01) (s : State) :
    busyAccess (.rd width off) s = .error .readWhileBusy := by
  rw [busyAccess, if_neg (by tauto)]

/-- In a gap `STATUS` shows the flags as they stand. -/
theorem paced_serves (p : State → Run) (t : State) (behind : List Happening) :
    Serves (paced p) t (statusByte t) interlude [] behind := by
  refine fun reads => ⟨fun width off v => ?_, ?_, fun width off h => ?_⟩
  · exact congrArg (·.andThen p) (attendOver_env behind _ _ reads t)
  · exact congrArg (·.andThen p) (attendOver_env behind _ _ _ t)
  · rw [List.nil_append, interlude, paced, attend]
    simp only [beside, attendOver, busyAccess_refused h]
    rfl

/-- A primitive that clears `DONE` and waits. -/
def Attentive (p : State → Run) : Prop :=
  ∃ (f : State → State) (g : Waited → Run), Blind f ∧
    (∀ s, statusByte (f s) = statusByte { s with done := false }) ∧
    (∀ r, g (.refused r) = .refused r) ∧ ∀ s, p s = g (await (f s))

theorem transmit_attentive (e : Outbound) : Attentive (transmit e) :=
  ⟨clearDone, outboundEnd e, fun _ _ _ => rfl, fun _ => rfl, fun _ => rfl, transmit_eq e⟩

theorem sendByte_attentive (b : Byte) : Attentive (sendByte b) :=
  ⟨fun s => clearDone (setData b s), outboundEnd (.byte b), fun _ _ _ => rfl, fun _ => rfl,
    fun _ => rfl, fun s => transmit_eq _ (setData b s)⟩

theorem receive_attentive (k : AckFlag) (i : Option Word) : Attentive (receive k i) :=
  ⟨requested k, inboundEnd k i, fun _ _ _ => rfl, fun _ => rfl, fun _ => rfl, receive_eq k i⟩

/-- In a wait `STATUS` shows `DONE = 0` and the other flags as they stand. -/
theorem Attentive.serves {p : State → Run} (hp : Attentive p) (t : State) (behind : List Happening) :
    Serves p t (statusByte { t with done := false }) .access [] behind := by
  obtain ⟨f, g, hf, hstatus, hg, hp⟩ := hp
  have hp' : ∀ env reads, p (beside env reads t) = g (awaitOver env (beside env reads (f t))) :=
    fun env reads => by rw [hp, hf]; rfl
  refine fun reads => ⟨fun width off v => ?_, ?_, fun width off h => ?_⟩
  · rw [hp', hp']
    exact congrArg g (awaitOver_env behind _ _ reads (f t))
  · rw [hp', hp', ← hstatus]
    exact congrArg g (awaitOver_env behind _ _ _ (f t))
  · rw [hp', List.nil_append, awaitOver, busyAccess_refused h, hg]

/-- A schedule in which no interlude comes next. -/
def Stands (env : List Happening) : Prop :=
  ∀ reads s, attend (beside env reads s) = .ended (beside env reads s)

theorem stands_access (a : Access) (behind : List Happening) : Stands (.access a :: behind) :=
  fun _ _ => rfl

theorem stands_reply (r : Reply) (behind : List Happening) : Stands (.reply r :: behind) :=
  fun _ _ => rfl

theorem stands_wait (waiting : List Access) (r : Reply) (rest : List Happening) :
    Stands (waiting.map .access ++ .reply r :: rest) := by
  cases waiting with
  | nil => exact stands_reply r rest
  | cons a waiting => exact stands_access a _

theorem Stands.paced {env : List Happening} (h : Stands env) (p : State → Run) (reads : List Nat)
    (s : State) : paced p (beside env reads s) = p (beside env reads s) := by
  rw [Machine.paced, h, Run.ended_andThen]

/-- What serves an access at one place serves it in any run that comes to that place. -/
theorem Serves.lift {f p : State → Run} {s t : State} {status : Byte} {place : Access → Happening}
    {before behind : List Happening} {k : Run → Run} (hs : Serves p t status place [] behind)
    (hk : ∀ r, k (.refused r) = .refused r)
    (h : ∀ env, env = behind ∨ (∃ a, env = place a :: behind) → ∀ reads,
      f (beside (before ++ env) reads s) = k (p (beside env reads t))) :
    Serves f s status place before behind := by
  intro reads
  obtain ⟨hwrite, hstatus, hread⟩ := hs reads
  refine ⟨fun width off v => ?_, ?_, fun width off hne => ?_⟩
  · rw [h _ (.inr ⟨_, rfl⟩), h _ (.inl rfl)]
    exact congrArg k (hwrite width off v)
  · rw [h _ (.inr ⟨_, rfl⟩), h _ (.inl rfl)]
    exact congrArg k hstatus
  · rw [h _ (.inr ⟨_, rfl⟩)]
    exact (congrArg k (hread width off hne)).trans (hk _)

/-- In a wait before which no interlude comes. -/
theorem Attentive.serves_paced {p : State → Run} (hp : Attentive p) (t : State)
    {behind : List Happening} (hb : Stands behind) :
    Serves (paced p) t (statusByte { t with done := false }) .access [] behind := by
  refine (hp.serves t behind).lift (k := id) (fun _ => rfl) fun env henv reads => ?_
  have hstands : Stands env := by
    rcases henv with rfl | ⟨a, rfl⟩
    · exact hb
    · exact stands_access a behind
  exact hstands.paced p reads t

/-- A command serves an access as its run does. -/
theorem servedWhileBusy_of_serves {i : Instr} {s : State} {status : Byte} {place : Access → Happening}
    {before behind : List Happening} (hb : s.busy = false) (hm : missing i s = none)
    (h : Serves (body i s) (launch i s) status place before behind) :
    servedWhileBusy i s status place before behind := by
  have hexec : ∀ env reads, exec i (beside env reads s) =
      (body i s (beside env reads (launch i s))).outcome := by
    intro env reads
    have hbody : body i (beside env reads s) = body i s := by cases i <;> rfl
    rw [exec_ready (s := beside env reads s) hb ((missing_beside i env reads s).trans hm), hbody]
    rfl
  obtain ⟨hwrite, hstatus, hread⟩ := h s.hostReads
  refine ⟨fun width off v => ?_, ?_, fun width off hne => ?_⟩
  · exact (hexec _ _).trans ((congrArg Run.outcome (hwrite width off v)).trans (hexec _ _).symm)
  · exact (hexec _ _).trans ((congrArg Run.outcome hstatus).trans (hexec _ _).symm)
  · exact (hexec _ _).trans (congrArg Run.outcome (hread width off hne))

/-! ## How far a run has come -/

/-- Run `f` from `s`, once `before` has happened, stands before `p` in state `t`, whatever comes then. -/
def Reaches (f : State → Run) (s : State) (before : List Happening) (p : State → Run) (t : State) :
    Prop :=
  ∃ k : Run → Run, (∀ r, k (.refused r) = .refused r) ∧
    ∀ rest reads, f (beside (before ++ rest) reads s) = k (p (beside rest reads t))

/-- Run `f` from `s`, once `before` has happened, is complete in state `t`, whatever comes then. -/
def Passes (f : State → Run) (s : State) (before : List Happening) (t : State) : Prop :=
  ∀ rest reads, f (beside (before ++ rest) reads s) = .ended (beside rest reads t)

theorem Reaches.serves {f p : State → Run} {s t : State} {status : Byte} {place : Access → Happening}
    {before behind : List Happening} (h : Reaches f s before p t)
    (hs : Serves p t status place [] behind) : Serves f s status place before behind := by
  obtain ⟨k, hk, h⟩ := h
  exact hs.lift hk fun env _ reads => h env reads

theorem Reaches.refl (p : State → Run) (s : State) : Reaches p s [] p s :=
  ⟨id, fun _ => rfl, fun _ _ => rfl⟩

/-- Behind a run that has not come further. -/
theorem Reaches.andThen {f p : State → Run} {s t : State} {before : List Happening}
    (h : Reaches f s before p t) (g : State → Run) :
    Reaches (fun s => (f s).andThen g) s before p t := by
  obtain ⟨k, hk, h⟩ := h
  exact ⟨fun x => (k x).andThen g, fun r => congrArg (·.andThen g) (hk r),
    fun rest reads => congrArg (·.andThen g) (h rest reads)⟩

/-- Behind a run that is complete. -/
theorem Passes.reaches {f g p : State → Run} {s t u : State} {xs ys : List Happening}
    (hf : Passes f s xs t) (hg : Reaches g t ys p u) :
    Reaches (fun s => (f s).andThen g) s (xs ++ ys) p u := by
  obtain ⟨k, hk, h⟩ := hg
  exact ⟨k, hk, fun rest reads => by beta_reduce; rw [List.append_assoc, hf, Run.ended_andThen, h]⟩

theorem Passes.andThen {f g : State → Run} {s t u : State} {xs ys : List Happening}
    (hf : Passes f s xs t) (hg : Passes g t ys u) :
    Passes (fun s => (f s).andThen g) s (xs ++ ys) u :=
  fun rest reads => by beta_reduce; rw [List.append_assoc, hf, Run.ended_andThen, hg]

/-- Where a page command stands once a bus primitive of it is complete; `isOpen` says whether a frame is
open, `c` is the state it was launched in. -/
def OnBus (c : State) (isOpen : Bool) (t : State) : Prop :=
  t.busy = true ∧ t.done = true ∧ t.result = .success ∧ t.inited = true ∧ t.inframe = isOpen ∧
    t.ps = c.ps ∧ t.retryBudget = c.retryBudget

/-- The value of `STATUS` there, in a gap and in a wait. -/
theorem OnBus.statusByte {c t : State} {isOpen : Bool} (h : OnBus c isOpen t) :
    statusByte t = if isOpen then 0x1B else 0x13 := by
  obtain ⟨hbusy, hdone, hres, hinit, hframe, -⟩ := h
  rw [Machine.statusByte, hbusy, hdone, hres, hinit, hframe]
  cases isOpen <;> rfl

theorem OnBus.statusByte_waiting {c t : State} {isOpen : Bool} (h : OnBus c isOpen t) :
    Machine.statusByte { t with done := false } = if isOpen then 0x19 else 0x11 := by
  obtain ⟨hbusy, -, hres, hinit, hframe, -⟩ := h
  simp only [Machine.statusByte, hbusy, hres, hinit, hframe]
  cases isOpen <;> rfl

/-- Run `f` from `s` makes one handshake for each of `frames`, which says whether a frame is open before
it, and leaves a frame open or not as `last` says; `G` is what its answers must meet. -/
def Paces (G : Nat × Answer → Prop) (c : State) (frames : List Bool) (f : State → Run) (s : State)
    (last : Bool) : Prop :=
  (∀ xs isOpen, frames[xs.length]? = some isOpen → (∀ x ∈ xs, G x) →
    ∃ p t, Attentive p ∧ OnBus c isOpen t ∧ Reaches f s (completions xs) (paced p) t) ∧
  (∀ xs, xs.length = frames.length → (∀ x ∈ xs, G x) →
    ∃ t, OnBus c last t ∧ Passes f s (completions xs) t)

variable {G : Nat × Answer → Prop} {c : State}

theorem Paces.ended {s : State} {b : Bool} (h : OnBus c b s) : Paces G c [] .ended s b := by
  refine ⟨fun xs _ hx => by simp at hx, fun xs hx _ => ⟨s, h, ?_⟩⟩
  obtain rfl := List.length_eq_zero_iff.1 hx
  exact fun _ _ => rfl

/-- The handshakes of one run, then those of the next. -/
theorem Paces.andThen {f g : State → Run} {s : State} {fs gs : List Bool} {b b' : Bool}
    (hf : Paces G c fs f s b) (hg : ∀ t, OnBus c b t → Paces G c gs g t b') :
    Paces G c (fs ++ gs) (fun s => (f s).andThen g) s b' := by
  have hsplit : ∀ xs : List (Nat × Answer), fs.length ≤ xs.length → (∀ x ∈ xs, G x) →
      ∃ ys zs t, xs = ys ++ zs ∧ ys.length = fs.length ∧ (∀ x ∈ zs, G x) ∧ OnBus c b t ∧
        Passes f s (completions ys) t := by
    intro xs hlen hG
    have hys : (xs.take fs.length).length = fs.length := by simp [hlen]
    obtain ⟨t, ht, hpass⟩ := hf.2 (xs.take fs.length) hys fun x hx => hG x (List.mem_of_mem_take hx)
    exact ⟨_, xs.drop fs.length, t, (List.take_append_drop ..).symm, hys,
      fun x hx => hG x (List.mem_of_mem_drop hx), ht, hpass⟩
  refine ⟨fun xs isOpen hx hG => ?_, fun xs hx hG => ?_⟩
  · by_cases hlt : xs.length < fs.length
    · rw [List.getElem?_append_left hlt] at hx
      obtain ⟨p, t, hp, ht, hr⟩ := hf.1 xs isOpen hx hG
      exact ⟨p, t, hp, ht, hr.andThen g⟩
    · obtain ⟨ys, zs, t, rfl, hys, hzs, ht, hpass⟩ := hsplit xs (by omega) hG
      rw [List.getElem?_append_right (by omega), List.length_append, hys, Nat.add_sub_cancel_left] at hx
      obtain ⟨p, u, hp, hu, hr⟩ := (hg t ht).1 zs isOpen hx hzs
      exact ⟨p, u, hp, hu, completions_append ys zs ▸ hpass.reaches hr⟩
  · rw [List.length_append] at hx
    obtain ⟨ys, zs, t, rfl, hys, hzs, ht, hpass⟩ := hsplit xs (by omega) hG
    rw [List.length_append] at hx
    obtain ⟨u, hu, hpass'⟩ := (hg t ht).2 zs (by omega) hzs
    exact ⟨u, hu, completions_append ys zs ▸ hpass.andThen hpass'⟩

/-- An update of registers before the run. -/
theorem Paces.update {f : State → State} {g : State → Run} {s : State} {gs : List Bool} {b : Bool}
    (hf : Blind f) (h : Paces G c gs g (f s) b) : Paces G c gs (fun s => g (f s)) s b := by
  refine ⟨fun xs isOpen hx hG => ?_, fun xs hx hG => ?_⟩
  · obtain ⟨p, t, hp, ht, k, hk, hr⟩ := h.1 xs isOpen hx hG
    exact ⟨p, t, hp, ht, k, hk, fun rest reads => (congrArg g (hf _ _ s)).trans (hr rest reads)⟩
  · obtain ⟨t, ht, hpass⟩ := h.2 xs hx hG
    exact ⟨t, ht, fun rest reads => (congrArg g (hf _ _ s)).trans (hpass rest reads)⟩

/-- Two runs that do the same from `s`, whatever the schedule. -/
theorem Paces.congr {f g : State → Run} {s : State} {gs : List Bool} {b : Bool}
    (hfg : ∀ env reads, f (beside env reads s) = g (beside env reads s)) (h : Paces G c gs g s b) :
    Paces G c gs f s b := by
  refine ⟨fun xs isOpen hx hG => ?_, fun xs hx hG => ?_⟩
  · obtain ⟨p, t, hp, ht, k, hk, hr⟩ := h.1 xs isOpen hx hG
    exact ⟨p, t, hp, ht, k, hk, fun rest reads => by rw [hfg, hr]⟩
  · obtain ⟨t, ht, hpass⟩ := h.2 xs hx hG
    exact ⟨t, ht, fun rest reads => by rw [hfg, hpass]⟩

/-- One primitive makes one handshake. -/
theorem Paces.primitive {p : State → Run} {s : State} {b b' : Bool} (hp : Attentive p)
    (hs : OnBus c b s)
    (hdone : ∀ x, G x → ∃ t, OnBus c b' t ∧ ∀ rest reads,
      p (beside (.reply (.complete x.1 x.2) :: rest) reads s) = .ended (beside rest reads t)) :
    Paces G c [b] (paced p) s b' := by
  refine ⟨fun xs isOpen hx _ => ?_, fun xs hx hG => ?_⟩
  · have hlen : xs.length < [b].length := (List.getElem?_eq_some_iff.1 hx).1
    obtain rfl : xs = [] := List.length_eq_zero_iff.1 (by simpa using hlen)
    obtain rfl : b = isOpen := by simpa using hx
    exact ⟨p, s, hp, hs, Reaches.refl _ _⟩
  · obtain ⟨x, rfl⟩ := List.length_eq_one_iff.1 hx
    obtain ⟨t, ht, h⟩ := hdone x (hG x (List.mem_singleton_self x))
    exact ⟨t, ht, fun rest reads => ((stands_reply _ rest).paced p reads s).trans (h rest reads)⟩

/-- An outbound primitive whose handshake completes, whatever the schedule behind it. -/
theorem transmit_passes (e : Outbound) (x : Nat × Answer) (s : State) (rest : List Happening)
    (reads : List Nat) : transmit e (beside (.reply (.complete x.1 x.2) :: rest) reads s) =
      .ended (beside rest reads (markComplete e (deliver e x.2 (clearDone s)))) := by
  rw [transmit_complete rfl]
  exact congrArg Run.ended ((congrArg (markComplete e) (deliver_blind e x.2 rest reads (clearDone s))).trans
    (markComplete_blind e rest reads _))

theorem pacedTransmit_paces (e : Outbound) {s : State} {b : Bool} (hs : OnBus c b s) :
    Paces G c [b] (paced (transmit e)) s (frameFlag e b) := by
  refine Paces.primitive (transmit_attentive e) hs fun x _ => ⟨_, ?_, transmit_passes e x s⟩
  obtain ⟨hbusy, -, -, hinit, hframe, hps, hbudget⟩ := hs
  exact ⟨by simpa using hbusy, by simp, by simp, by simpa using hinit,
    by simp [markComplete_inframe, hframe], by simpa using hps, by simpa using hbudget⟩

theorem pacedSendByte_paces (v : Byte) {s : State} {b : Bool} (hs : OnBus c b s) :
    Paces G c [b] (paced (sendByte v)) s b := by
  refine Paces.primitive (sendByte_attentive v) hs fun x _ =>
    ⟨_, ?_, transmit_passes (.byte v) x (setData v s)⟩
  obtain ⟨hbusy, -, -, hinit, hframe, hps, hbudget⟩ := hs
  exact ⟨by simpa using hbusy, by simp, by simp, by simpa using hinit, by simpa using hframe,
    by simpa using hps, by simpa using hbudget⟩

theorem pacedReceive_paces (hG : ∀ x, G x → x.1 < c.retryBudget.toNat) (k : AckFlag) (i : Option Word)
    {s : State} {b : Bool} (hs : OnBus c b s) : Paces G c [b] (paced (receive k i)) s b := by
  refine Paces.primitive (receive_attentive k i) hs fun x hx =>
    ⟨acceptByte k x.2 x.1 (requested k s), ?_, fun rest reads => ?_⟩
  · obtain ⟨hbusy, -, -, hinit, hframe, hps, hbudget⟩ := hs
    exact ⟨by simpa using hbusy, by simp, by simp, by simpa using hinit, by simpa using hframe,
      by simpa using hps, by simpa using hbudget⟩
  · obtain ⟨-, -, -, -, -, -, hbudget⟩ := hs
    rw [receive_complete rfl (by rw [beside, hbudget]; exact hG x hx)]
    exact congrArg Run.ended (acceptByte_blind k x.2 x.1 rest reads (requested k s))

/-! ## The page commands, handshake by handshake -/

theorem writeBytes_paces (n : Nat) {s : State} (hs : OnBus c true s) :
    Paces G c (List.replicate n true) (writeBytes n) s true := by
  induction n generalizing s with
  | zero => exact Paces.ended hs
  | succ n ih =>
    have hsend : Paces G c [true] (fun s => paced (sendByte (memRead (byteAddress s) s)) s) s true :=
      (pacedSendByte_paces (memRead (byteAddress s) s) hs).congr fun _ _ => rfl
    exact hsend.andThen fun t ht =>
      (ih (s := setIdx (t.idx + 1) t) ht).update (f := fun t => setIdx (t.idx + 1) t) fun _ _ _ => rfl

theorem Paces.abortRead {n : Nat} {f : State → Run} {s : State} {fs : List Bool} {b : Bool}
    (h : Paces G c fs f s b) : Paces G c fs (fun s => Machine.abortRead n (f s)) s b := by
  refine ⟨fun xs isOpen hx hG => ?_, fun xs hx hG => ?_⟩
  · obtain ⟨p, t, hp, ht, k, hk, hr⟩ := h.1 xs isOpen hx hG
    exact ⟨p, t, hp, ht, fun x => Machine.abortRead n (k x), fun r => congrArg (Machine.abortRead n) (hk r),
      fun rest reads => congrArg (Machine.abortRead n) (hr rest reads)⟩
  · obtain ⟨t, ht, hpass⟩ := h.2 xs hx hG
    exact ⟨t, ht, fun rest reads => congrArg (Machine.abortRead n) (hpass rest reads)⟩

theorem readBytes_paces (hG : ∀ x, G x → x.1 < c.retryBudget.toNat) (n : Nat) {s : State}
    (hs : OnBus c true s) : Paces G c (List.replicate n true) (readBytes n) s true := by
  induction n generalizing s with
  | zero => exact Paces.ended hs
  | succ n ih =>
    have hreceive : Paces G c [true] (fun s => paced (receive (ackByPosition s) (some s.idx)) s) s true :=
      (pacedReceive_paces hG (ackByPosition s) (some s.idx) hs).congr fun _ _ => rfl
    exact hreceive.abortRead.andThen fun t ht =>
      (ih (s := setIdx (t.idx + 1) (memWrite (byteAddress t) t.data t)) ht).update
        (f := fun t => setIdx (t.idx + 1) (memWrite (byteAddress t) t.data t)) fun _ _ _ => rfl

/-- The three bytes that give the device its address, as both page commands send them. -/
def sendAddressBytes (s : State) : Run :=
  (paced (sendByte writeIntent) s).andThen fun u =>
  (paced (sendByte (highByte u.addr)) u).andThen fun v =>
  paced (sendByte (lowByte v.addr)) v

theorem sendAddressBytes_paces {s : State} (hs : OnBus c true s) :
    Paces G c [true, true, true] sendAddressBytes s true := by
  refine (pacedSendByte_paces writeIntent hs).andThen (gs := [true, true]) fun u hu => ?_
  have hhigh : Paces G c [true] (fun u => paced (sendByte (highByte u.addr)) u) u true :=
    (pacedSendByte_paces (highByte u.addr) hu).congr fun _ _ => rfl
  refine hhigh.andThen (gs := [true]) fun v hv => ?_
  exact (pacedSendByte_paces (lowByte v.addr) hv).congr fun _ _ => rfl

/-- What WRITE_PAGE does after its START. -/
def afterWriteStart (s : State) : Run :=
  (sendAddressBytes s).andThen fun t =>
  (writeBytes t.ps.toNat (setIdx 0 (setSeq 3 t))).andThen fun u =>
  paced (transmit .stop) (setSeq 4 u)

theorem afterWriteStart_paces {s : State} (hs : OnBus c true s) :
    Paces G c (List.replicate (c.ps.toNat + 4) true) afterWriteStart s false := by
  have hframes : List.replicate (c.ps.toNat + 4) true =
      [true, true, true] ++ (List.replicate c.ps.toNat true ++ [true]) := by
    rw [← List.replicate_succ']
    rfl
  rw [hframes]
  refine (sendAddressBytes_paces hs).andThen fun t ht => Paces.andThen (b := true) ?_ fun u hu => ?_
  · obtain ⟨-, -, -, -, -, hps, -⟩ := id ht
    refine ((writeBytes_paces c.ps.toNat (s := setIdx 0 (setSeq 3 t)) ht).update
      (f := fun t => setIdx 0 (setSeq 3 t)) fun _ _ _ => rfl).congr fun env reads => ?_
    rw [← hps]
    rfl
  · exact (pacedTransmit_paces .stop (s := setSeq 4 u) hu).update (f := setSeq 4) fun _ _ _ => rfl

/-- What READ_PAGE does after its first START, up to its first inbound byte. -/
def afterReadStart (s : State) : Run :=
  (sendAddressBytes s).andThen fun t =>
  (paced (transmit .stop) t).andThen fun u =>
  (paced (transmit .start) (setSeq 3 u)).andThen fun v =>
  paced (sendByte readIntent) v

theorem afterReadStart_paces {s : State} (hs : OnBus c true s) :
    Paces G c [true, true, true, true, false, true] afterReadStart s true := by
  refine (sendAddressBytes_paces hs).andThen (gs := [true, false, true]) fun t ht => ?_
  refine (pacedTransmit_paces .stop ht).andThen (gs := [false, true]) fun u hu => ?_
  have hstart : Paces G c [false] (fun u => paced (transmit .start) (setSeq 3 u)) u true :=
    (pacedTransmit_paces .start (s := setSeq 3 u) hu).update (f := setSeq 3) fun _ _ _ => rfl
  exact hstart.andThen (gs := [true]) fun v hv => pacedSendByte_paces readIntent hv

/-- The inbound bytes of READ_PAGE, and its last STOP. -/
def readBytesAndStop (s : State) : Run :=
  (readBytes s.ps.toNat (setIdx 0 (setSeq 4 s))).andThen fun x =>
  paced (transmit .stop) (setSeq 5 x)

theorem readBytesAndStop_paces (hG : ∀ x, G x → x.1 < c.retryBudget.toNat) {s : State}
    (hs : OnBus c true s) :
    Paces G c (List.replicate (c.ps.toNat + 1) true) readBytesAndStop s false := by
  rw [List.replicate_succ']
  refine Paces.andThen (b := true) ?_ fun u hu => ?_
  · obtain ⟨-, -, -, -, -, hps, -⟩ := id hs
    refine ((readBytes_paces hG c.ps.toNat (s := setIdx 0 (setSeq 4 s)) hs).update
      (f := fun t => setIdx 0 (setSeq 4 t)) fun _ _ _ => rfl).congr fun env reads => ?_
    rw [← hps]
    rfl
  · exact (pacedTransmit_paces .stop (s := setSeq 5 u) hu).update (f := setSeq 5) fun _ _ _ => rfl

/-! ## From the launch of a page command -/

theorem Run.andThen_assoc (x : Run) (f g : State → Run) :
    (x.andThen f).andThen g = x.andThen fun s => (f s).andThen g := by cases x <;> rfl

/-- The state in which a page command issues its first START: after INIT and Translate. -/
def opened (s : State) : State := translate (setSeq 2 (configure (setSeq 1 s)))

/-- What a page command does after its first START. -/
def afterStart (i : Instr) (s : State) : Run :=
  if i = .writePage then afterWriteStart s else (afterReadStart s).andThen readBytesAndStop

/-- A page command that no interlude delays comes to its first START. -/
theorem pageBody_eq {i : Instr} (hi : i = .readPage ∨ i = .writePage) (d : State)
    {env : List Happening} (h : Stands env) (reads : List Nat) (s : State) :
    body i d (beside env reads s) =
      (paced (transmit .start) (beside env reads (opened s))).andThen (afterStart i) := by
  have haddress : sendAddress (beside env reads s) =
      (paced (transmit .start) (beside env reads (opened s))).andThen sendAddressBytes := by
    have hinit : paced initialise (setSeq 1 (beside env reads s)) =
        .ended (beside env reads (configure (setSeq 1 s))) := h.paced initialise reads (setSeq 1 s)
    rw [sendAddress, hinit]
    rfl
  rcases hi with rfl | rfl
  · have hafter : afterStart .readPage = fun t => (sendAddressBytes t).andThen _ := funext fun t => by
      rw [afterStart, if_neg nofun, afterReadStart, Run.andThen_assoc]
    rw [hafter, body, readPageBody, haddress, Run.andThen_assoc]
    simp only [Run.andThen_assoc]
    rfl
  · rw [body, writePageBody, haddress, Run.andThen_assoc]
    rfl

/-- Once the first START is complete, a page command stands where what is behind it stands. -/
theorem pageBody_reaches {i : Instr} (hi : i = .readPage ∨ i = .writePage) (d : State) {s : State}
    (hb : s.busy = true) (x : Nat × Answer) {ys : List (Nat × Answer)} {isOpen : Bool}
    (h : ∀ t, OnBus s true t → ∃ p u, Attentive p ∧ OnBus s isOpen u ∧
      Reaches (afterStart i) t (completions ys) (paced p) u) :
    ∃ p u, Attentive p ∧ OnBus s isOpen u ∧
      Reaches (body i d) s (completions (x :: ys)) (paced p) u := by
  have hstart : OnBus s true (markComplete .start (deliver .start x.2 (clearDone (opened s)))) := by
    refine ⟨?_, ?_, ?_, ?_, ?_, ?_, ?_⟩ <;> simp [opened, hb]
  obtain ⟨p, u, hp, hu, k, hk, hr⟩ := h _ hstart
  refine ⟨p, u, hp, hu, k, hk, fun rest reads => ?_⟩
  have hstands : Stands (completions (x :: ys) ++ rest) := stands_reply _ _
  rw [pageBody_eq hi d hstands, hstands.paced]
  exact (congrArg (·.andThen (afterStart i)) (transmit_passes .start x (opened s) _ reads)).trans
    (hr rest reads)

/-- Where WRITE_PAGE stands after its first START: in its frame, up to its STOP. -/
theorem writePage_reaches (d : State) {s : State} (hb : s.busy = true) {xs : List (Nat × Answer)}
    (hpos : 1 ≤ xs.length) (hlt : xs.length < s.ps.toNat + 5) :
    ∃ p t, Attentive p ∧ OnBus s true t ∧
      Reaches (body .writePage d) s (completions xs) (paced p) t := by
  cases xs with
  | nil => exact absurd hpos (by simp)
  | cons x ys =>
    refine pageBody_reaches (.inr rfl) d hb x fun t ht => ?_
    refine (afterWriteStart_paces (G := fun _ => True) ht).1 ys true ?_ fun _ _ => trivial
    exact List.getElem?_replicate_of_lt (by simp at hlt; omega)

/-- Where READ_PAGE stands at its inbound bytes, up to its last STOP. -/
theorem readPage_reaches_reads (d : State) {s : State} (hb : s.busy = true)
    {setup reads : List (Nat × Answer)} (hsetup : setup.length = 7) (hreads : reads.length ≤ s.ps.toNat)
    (hbudget : inBudget s.retryBudget reads) :
    ∃ p t, Attentive p ∧ OnBus s true t ∧
      Reaches (body .readPage d) s (completions setup ++ completions reads) (paced p) t := by
  obtain ⟨x, ys, rfl⟩ := List.exists_cons_of_length_eq_add_one hsetup
  rw [← completions_append]
  refine pageBody_reaches (.inl rfl) d hb x fun t ht => ?_
  obtain ⟨u, hu, hpass⟩ := (afterReadStart_paces (G := fun _ => True) ht).2 ys (by simpa using hsetup)
    fun _ _ => trivial
  obtain ⟨p, v, hp, hv, hr⟩ := (readBytesAndStop_paces (G := fun x => x.1 < s.retryBudget.toNat)
    (fun _ => id) hu).1 reads true (List.getElem?_replicate_of_lt (by omega)) hbudget
  exact ⟨p, v, hp, hv, completions_append ys reads ▸ hpass.reaches hr⟩

/-- Where READ_PAGE stands after its first START: in a frame, but between its two. -/
theorem readPage_reaches_setup (d : State) {s : State} (hb : s.busy = true)
    {setup : List (Nat × Answer)} (hpos : 1 ≤ setup.length) (hle : setup.length ≤ 7) :
    ∃ p t, Attentive p ∧ OnBus s (decide (setup.length ≠ 5)) t ∧
      Reaches (body .readPage d) s (completions setup) (paced p) t := by
  rcases hle.eq_or_lt with h7 | hlt
  · have hr := readPage_reaches_reads d hb (reads := []) h7 (Nat.zero_le _) (by simp [inBudget])
    simpa [h7, completions] using hr
  · cases setup with
    | nil => exact absurd hpos (by simp)
    | cons x ys =>
      have hys : ys.length < 6 := by rw [List.length_cons] at hlt; omega
      have hframe : [true, true, true, true, false, true][ys.length]? =
          some (decide ((x :: ys).length ≠ 5)) := by
        rw [List.length_cons]
        generalize ys.length = n at hys
        revert n
        decide
      refine pageBody_reaches (.inl rfl) d hb x fun t ht => ?_
      obtain ⟨p, u, hp, hu, hr⟩ := (afterReadStart_paces (G := fun _ => True) ht).1 ys _ hframe
        fun _ _ => trivial
      exact ⟨p, u, hp, hu, hr.andThen readBytesAndStop⟩

/-! ## Accesses during a command -/

theorem missing_page {i : Instr} (hi : i = .readPage ∨ i = .writePage) (s : State) :
    missing i s = needPage s := by
  rcases hi with rfl | rfl <;> rfl

/-- An access in the first wait of a page command, before which no interlude comes. -/
theorem serves_firstWait {i : Instr} (hi : i = .readPage ∨ i = .writePage) (d s : State)
    {behind : List Happening} (hb : Stands behind) :
    Serves (body i d) s (statusByte { opened s with done := false }) .access [] behind := by
  refine ((transmit_attentive .start).serves_paced (opened s) hb).lift
    (k := (·.andThen (afterStart i))) (fun _ => rfl) fun env henv reads => ?_
  have hstands : Stands env := by
    rcases henv with rfl | ⟨a, rfl⟩
    · exact hb
    · exact stands_access a behind
  exact pageBody_eq hi d hstands reads s

/-- A primitive by hand is a wait. -/
theorem body_attentive {i : Instr} (d : State) (h1 : i ≠ .init) (h2 : i ≠ .readPage)
    (h3 : i ≠ .writePage) : Attentive (body i d) := by
  cases i with
  | init => exact absurd rfl h1
  | start => exact transmit_attentive .start
  | stop => exact transmit_attentive .stop
  | writeByte => exact sendByte_attentive d.data
  | readByte k => exact receive_attentive k none
  | readPage => exact absurd rfl h2
  | writePage => exact absurd rfl h3

/-- Settles O58: each wait is that of a primitive which has cleared `DONE`, and the run up to it does not
depend on what happens in it. -/
theorem accessesDuringAWait : Obligations.AccessesDuringAWait := by
  unfold Obligations.AccessesDuringAWait
  intro s waiting r rest hb
  have hstands := stands_wait waiting r rest
  refine ⟨fun i h1 h2 h3 hm => ?_, fun i hi hm => ?_, fun answers hm hpos hlt => ?_,
    fun setup hm hpos hlt => ?_, fun setup reads hm hsetup hreads hbudget => ?_⟩
  · exact servedWhileBusy_of_serves hb hm ((body_attentive s h1 h2 h3).serves (launch i s) _)
  · exact servedWhileBusy_of_serves hb ((missing_page hi s).trans hm)
      (serves_firstWait hi s (launch i s) hstands)
  · obtain ⟨p, t, hp, ht, hr⟩ := writePage_reaches s (s := launch .writePage s) rfl hpos hlt
    have hserves := hr.serves (hp.serves_paced t hstands)
    rw [ht.statusByte_waiting] at hserves
    exact servedWhileBusy_of_serves hb hm hserves
  · obtain ⟨p, t, hp, ht, hr⟩ := readPage_reaches_setup s (s := launch .readPage s) rfl hpos hlt.le
    have hserves := hr.serves (hp.serves_paced t hstands)
    rw [ht.statusByte_waiting] at hserves
    have hserved := servedWhileBusy_of_serves (i := .readPage) hb hm hserves
    by_cases h5 : setup.length = 5 <;> simpa [h5] using hserved
  · obtain ⟨p, t, hp, ht, hr⟩ := readPage_reaches_reads s (s := launch .readPage s) rfl hsetup
      hreads hbudget
    have hserves := hr.serves (hp.serves_paced t hstands)
    rw [ht.statusByte_waiting] at hserves
    exact servedWhileBusy_of_serves hb hm hserves

/-- The gaps of a page command before INIT, and between INIT and its first START. -/
theorem pageBody_reaches_init {i : Instr} (hi : i = .readPage ∨ i = .writePage) (d s : State) :
    Reaches (body i d) s [] (paced initialise) (setSeq 1 s) := by
  have hinit : Reaches (fun s => paced initialise (setSeq 1 s)) s [] (paced initialise) (setSeq 1 s) :=
    ⟨id, fun _ => rfl, fun _ _ => rfl⟩
  have haddress : Reaches sendAddress s [] (paced initialise) (setSeq 1 s) := hinit.andThen _
  rcases hi with rfl | rfl
  · exact haddress.andThen _
  · exact haddress.andThen _

theorem pageBody_reaches_start {i : Instr} (hi : i = .readPage ∨ i = .writePage) (d s : State) :
    Reaches (body i d) s [.between .go] (paced (transmit .start)) (opened s) := by
  have hinit : Passes (fun s => paced initialise (setSeq 1 s)) s [.between .go]
      (configure (setSeq 1 s)) := fun _ _ => rfl
  have hstart : Reaches (fun r => paced (transmit .start) (translate (setSeq 2 r)))
      (configure (setSeq 1 s)) [] (paced (transmit .start)) (opened s) :=
    ⟨id, fun _ => rfl, fun _ _ => rfl⟩
  have haddress : Reaches sendAddress s [.between .go] (paced (transmit .start)) (opened s) :=
    hinit.reaches (hstart.andThen _)
  rcases hi with rfl | rfl
  · exact haddress.andThen _
  · exact haddress.andThen _

/-- Settles O59: in a gap `STATUS` shows the flags as they stand, and the run up to it does not depend on
what happens in it. -/
theorem statusBetweenPrimitives : Obligations.StatusBetweenPrimitives := by
  unfold Obligations.StatusBetweenPrimitives
  intro s rest hready
  obtain ⟨hb, hm⟩ := hready
  refine ⟨fun i hi => ⟨?_, ?_⟩, fun answers hpos hlt => ?_, fun setup hpos hle => ?_,
    fun setup reads hsetup hreads hbudget => ?_⟩
  · exact servedWhileBusy_of_serves hb ((missing_page hi s).trans hm)
      ((pageBody_reaches_init hi s (launch i s)).serves (paced_serves _ _ rest))
  · exact servedWhileBusy_of_serves hb ((missing_page hi s).trans hm)
      ((pageBody_reaches_start hi s (launch i s)).serves (paced_serves _ _ rest))
  · obtain ⟨p, t, -, ht, hr⟩ := writePage_reaches s (s := launch .writePage s) rfl hpos hlt
    have hserves := hr.serves (paced_serves p t rest)
    rw [ht.statusByte] at hserves
    exact servedWhileBusy_of_serves hb hm hserves
  · obtain ⟨p, t, -, ht, hr⟩ := readPage_reaches_setup s (s := launch .readPage s) rfl hpos hle
    have hserves := hr.serves (paced_serves p t rest)
    rw [ht.statusByte] at hserves
    have hserved := servedWhileBusy_of_serves (i := .readPage) hb hm hserves
    by_cases h5 : setup.length = 5 <;> simpa [h5] using hserved
  · obtain ⟨p, t, -, ht, hr⟩ := readPage_reaches_reads s (s := launch .readPage s) rfl hsetup
      hreads hbudget
    have hserves := hr.serves (paced_serves p t rest)
    rw [ht.statusByte] at hserves
    exact servedWhileBusy_of_serves hb hm hserves

end Sys2Proof.Machine
end

section
/-! SUPPORT. The family of 20_memory.md: page addresses, the buffer overlap, and the transitions of the
reference device. -/

namespace Sys2Proof.Machine

open Sys2Proof.Safety

/-! ## Page addresses and the buffer overlap -/

theorem pageAddress_toNat (p n : Word) : (pageAddress p n).toNat = p.toNat * n.toNat % 65536 :=
  BitVec.toNat_ofNat ..

/-- Settles O24: the product is a multiple of the page size, and so is what truncation takes off. -/
theorem pageAddressesAreAligned : Obligations.PageAddressesAreAligned := by
  unfold Obligations.PageAddressesAreAligned
  intro p s hdvd
  rw [pageAddress_toNat]
  exact (Nat.dvd_mod_iff hdvd).2 (Nat.dvd_mul_left ..)

/-- Going up `k` from host address `a` leads to `b` exactly when `k` is their distance, but for whole turns
round the address space. -/
theorem hostAddress_add_eq_iff (a b k : Nat) (s : State) :
    (a + k) % hostSize s = b % hostSize s ↔ k % hostSize s = hostDistance a b s := by
  have ha := Nat.mod_lt a (hostSize_pos s)
  unfold hostDistance hostAddress
  generalize hostSize s = z at *
  have hturns : a + (z - a % z) = z * (a / z + 1) := by
    have := Nat.div_add_mod a z
    rw [Nat.mul_succ]
    omega
  have hleft : a + k + (z - a % z) ≡ k [MOD z] := by
    rw [Nat.add_right_comm, hturns]
    exact Nat.mul_add_mod ..
  have hright : b + (z - a % z) ≡ b % z + (z - a % z) [MOD z] := (Nat.mod_modEq b z).symm.add_right _
  exact ⟨fun h => hleft.symm.trans ((Nat.ModEq.add_right _ h).trans hright),
    fun h => Nat.ModEq.add_right_cancel' (z - a % z) (hleft.trans (Nat.ModEq.trans h hright.symm))⟩

theorem bufferOverlaps_iff (s : State) : bufferOverlaps s = true ↔ s.ps ≠ 0 ∧
    (hostDistance s.buf s.regBase s < s.ps.toNat ∨ hostDistance s.regBase s.buf s < 17) := by
  simp [bufferOverlaps, show Config.regSpan = 17 from rfl]

/-- Settles O25: where two intervals share an address, the later start lies inside the other interval. -/
theorem overlapIsASharedAddress : Obligations.OverlapIsASharedAddress := by
  unfold Obligations.OverlapIsASharedAddress
  intro s
  rw [bufferOverlaps_iff]
  constructor
  · rintro ⟨hps, hbuf | hreg⟩
    · exact ⟨_, hbuf, 0, by decide, (hostAddress_add_eq_iff ..).2 (Nat.mod_mod ..)⟩
    · have hpos : 0 < s.ps.toNat := Nat.pos_of_ne_zero fun h => hps (BitVec.eq_of_toNat_eq h)
      exact ⟨0, hpos, _, hreg, ((hostAddress_add_eq_iff ..).2 (Nat.mod_mod ..)).symm⟩
  · rintro ⟨i, hi, j, hj, h⟩
    refine ⟨fun h0 => by simp [h0] at hi, ?_⟩
    rcases Nat.le_total j i with hji | hij
    · left
      have hstart : (s.buf + (i - j)) % hostSize s = s.regBase % hostSize s := by
        refine Nat.ModEq.add_right_cancel' j (n := hostSize s) ?_
        rwa [Nat.add_assoc, Nat.sub_add_cancel hji]
      rw [← (hostAddress_add_eq_iff ..).1 hstart]
      exact (Nat.mod_le ..).trans_lt (by omega)
    · right
      have hstart : (s.regBase + (j - i)) % hostSize s = s.buf % hostSize s := by
        refine Nat.ModEq.add_right_cancel' i (n := hostSize s) ?_
        rw [Nat.add_assoc, Nat.sub_add_cancel hij]
        exact h.symm
      rw [← (hostAddress_add_eq_iff ..).1 hstart]
      exact (Nat.mod_le ..).trans_lt (by omega)

end Sys2Proof.Machine
end

section
/-! SUPPORT. The family of 20_memory.md: the transitions of the reference device, and its power gate. -/

namespace Sys2Proof.Machine

open Sys2Proof.Safety

/-! ## The two halves of an address -/

theorem highByte_append (b c : Byte) : highByte (b ++ c) = b := BitVec.extractLsb'_append_eq_left

theorem lowByte_append (b c : Byte) : lowByte (b ++ c) = c := BitVec.extractLsb'_append_eq_right

theorem highByte_append_lowByte (a : Word) : highByte a ++ lowByte a = a :=
  (BitVec.extractLsb'_append_extractLsb'_eq_extractLsb' rfl).trans BitVec.extractLsb'_eq_self

/-! ## What the device does with a byte, by its frame position -/

theorem Device.take_writeIntent {d : Device} (h : d.ph = .sla) :
    d.take writeIntent = ({ d with ph := .ah }, .ack) := by
  rw [Device.take, h]
  rfl

theorem Device.take_readIntent {d : Device} (h : d.ph = .sla) :
    d.take readIntent = ({ d with ph := .rd }, .ack) := by
  rw [Device.take, h]
  rfl

theorem addressPart_ne_devAddr7 : ∀ b : Byte, b ≠ 0xA0 → b ≠ 0xA1 → addressPart b ≠ Config.devAddr7 := by
  decide

theorem Device.take_otherDevice {b : Byte} {d : Device} (h : d.ph = .sla) (hw : b ≠ 0xA0)
    (hr : b ≠ 0xA1) : d.take b = ({ d with ph := .deaf }, .nak) := by
  rw [Device.take, h]
  exact if_neg (addressPart_ne_devAddr7 b hw hr)

theorem Device.take_highByte {b : Byte} {d : Device} (h : d.ph = .ah) :
    d.take b = ({ d with ph := .al, ptr := b ++ lowByte d.ptr }, .ack) := by
  rw [Device.take, h]
  rfl

theorem Device.take_lowByte {b : Byte} {d : Device} (h : d.ph = .al) : d.take b =
    ({ d with
        ph := .wr, ptr := highByte d.ptr ++ b, start := highByte d.ptr ++ b, astray := false }, .ack) := by
  rw [Device.take, h]
  rfl

theorem Device.take_data {b : Byte} {d : Device} (h : d.ph = .wr) (hs : d.inSpace = true)
    (hw : d.inWindow = true) : d.take b = ((d.put b).advance, .ack) := by
  rw [Device.take, h]
  simp [Device.store, hs, hw]

theorem Device.take_ignored {b : Byte} {d : Device} (h : d.ph = .idle ∨ d.ph = .rd ∨ d.ph = .deaf) :
    d.take b = (d, .nak) := by
  rcases h with h | h | h <;> rw [Device.take, h]

/-- A powered device takes the byte and answers; nothing else changes. -/
theorem devWrite_devAck_of_take {b : Byte} {s : State} {d : Device} {a : Ack}
    (hp : s.dev.powered = true) (h : s.dev.take b = (d, a)) :
    devWrite b s = { s with dev := d } ∧ devAck b s = a := by
  simp [devWrite, devAck, hp, h, setDev]

/-- An inbound byte at an address in the device's range is the one the device holds there. -/
theorem devByte_of_defined {s : State} (h : devDefines s = true) :
    devByte s = s.dev.content s.dev.ptr := if_pos h

theorem devDefines_iff (s : State) : devDefines s = true ↔
    s.dev.powered = true ∧ s.dev.ph = .rd ∧ s.dev.inSpace = true := by
  simp [devDefines, and_assoc]

/-- Settles O38: one clause of the device's table for each. -/
theorem deviceFollowsItsTransitions : Obligations.DeviceFollowsItsTransitions := by
  unfold Obligations.DeviceFollowsItsTransitions
  intro s b hp hwf
  refine ⟨if_pos hp, if_pos hp, fun h hb => ?_, fun h hb => ?_, fun h hw hr => ?_, fun h => ?_,
    fun h => ?_, fun h hs hw => ?_, fun h => ?_, fun h hs => ?_, fun h => ?_⟩
  · exact devWrite_devAck_of_take hp (hb ▸ Device.take_writeIntent h)
  · exact devWrite_devAck_of_take hp (hb ▸ Device.take_readIntent h)
  · exact devWrite_devAck_of_take hp (Device.take_otherDevice h hw hr)
  · obtain ⟨hd, ha⟩ := devWrite_devAck_of_take hp (Device.take_highByte (b := b) h)
    exact ⟨ha, _, hd, highByte_append .., lowByte_append ..⟩
  · obtain ⟨hd, ha⟩ := devWrite_devAck_of_take hp (Device.take_lowByte (b := b) h)
    exact ⟨ha, _, hd, highByte_append .., lowByte_append ..⟩
  · obtain ⟨hd, ha⟩ := devWrite_devAck_of_take hp (Device.take_data (b := b) h hs hw)
    rw [hd]
    exact ⟨ha, fun c => Device.put_content b s.dev c hwf, rfl, h⟩
  · exact devWrite_devAck_of_take hp (Device.take_ignored h)
  · have hdev : (devRead s).dev = s.dev.advance := by rw [devRead_dev, if_pos ⟨hp, h⟩]
    refine ⟨devByte_of_defined ((devDefines_iff s).2 ⟨hp, h, hs⟩), (devRead_contents s).2, ?_, ?_⟩ <;>
      rw [hdev]
    · rfl
    · exact h
  · rw [devRead_dev, if_neg fun hrd => h hrd.2]

/-! ## The power gate -/

theorem Device.see_unpowered {d : Device} (e : Outbound) (h : d.powered = false) : d.see e = d := by
  simp [Device.see, h]

/-- Settles O39: each part of the device's in an event asks for its power first, and the gate leaves what
its contents are made of. -/
theorem unpoweredDeviceIsAbsent : Obligations.UnpoweredDeviceIsAbsent := by
  unfold Obligations.UnpoweredDeviceIsAbsent
  refine ⟨fun s e b hp => ⟨?_, ?_, ?_⟩, fun s rest hi => ?_, fun s rest hi => ?_⟩
  · rw [reach_eq, reach_dev, Device.see_unpowered e hp]
    rfl
  · simp [devAck, hp]
  · simp [devRead_dev, hp]
  · exact ⟨_, step_cons hi, rfl, fun _ => rfl, rfl⟩
  · rw [step_cons hi]
    rfl

end Sys2Proof.Machine
end

section
/-! SUPPORT. The family of 20_memory.md: the reference device, and the host's buffer, over the run of bytes
of a page. -/

namespace Sys2Proof.Machine

open Sys2Proof.Safety

/-! ## The device over a run of events -/

/-- The device after it has seen these events. -/
def Device.sees : List Outbound → Device → Device
  | [], d => d
  | e :: es, d => Device.sees es (d.see e)

theorem Device.follows_nonFailing {polls : List Nat} {es : List Outbound} (d : Device)
    (h : polls.length = es.length) : d.follows (nonFailing polls) es = d.sees es := by
  induction es generalizing polls d with
  | nil =>
    obtain rfl := List.length_eq_zero_iff.1 h
    rfl
  | cons e es ih =>
    obtain ⟨k, ks, rfl⟩ := List.exists_cons_of_length_eq_add_one h
    exact ih (polls := ks) (d.see e) (by simpa using h)

theorem Device.sees_append (es fs : List Outbound) (d : Device) :
    d.sees (es ++ fs) = (d.sees es).sees fs := by
  induction es generalizing d with
  | nil => rfl
  | cons e es ih => exact ih (d.see e)

theorem Device.see_start {d : Device} (h : d.powered = true) : d.see .start = { d with ph := .sla } :=
  if_pos h

theorem Device.see_stop {d : Device} (h : d.powered = true) : d.see .stop = { d with ph := .idle } :=
  if_pos h

theorem Device.see_byte {b : Byte} {d : Device} (h : d.powered = true) :
    d.see (.byte b) = (d.take b).1 := if_pos h

/-- The device in frame position `ph` of a frame that has given it address `a`. -/
def Device.addressed (a : Word) (ph : Phase) (d : Device) : Device :=
  { d with ph := ph, ptr := a, start := a, astray := false }

/-- The start of a write frame gives the device the page's address. -/
theorem Device.sees_address {d : Device} (p n : Word) (h : d.powered = true) :
    d.sees (.start :: (addressBytes p n).map .byte) = d.addressed (pageAddress p n) .wr := by
  simp [Device.sees, addressBytes, Device.addressed, h, Device.see_start, Device.see_byte,
    Device.take_writeIntent, Device.take_highByte, Device.take_lowByte, highByte_append,
    highByte_append_lowByte]

/-- What READ_PAGE sends leaves the device in a read frame at the page's address. -/
theorem Device.sees_readPageSends {s : State} (h : s.dev.powered = true) :
    s.dev.sees (readPageSends s) = s.dev.addressed (pageAddress s.pn s.ps) .rd := by
  have hsplit : readPageSends s =
      (.start :: (addressBytes s.pn s.ps).map .byte) ++ [.stop, .start, .byte readIntent] := rfl
  rw [hsplit, Device.sees_append, Device.sees_address _ _ h]
  simp [Device.sees, Device.addressed, h, Device.see_stop, Device.see_start, Device.see_byte,
    Device.take_readIntent]

/-! ## The device's range -/

/-- The device is there, and its next `n` bytes lie in its range: in the device, and in the window of the
address that its frame was given. -/
def Device.HasRoom (n : Nat) (d : Device) : Prop :=
  d.powered = true ∧ d.space ≤ 65536 ∧ ∀ i < n, d.astray = false ∧ d.ptr.toNat + i < d.space ∧
    (d.window = 0 ∨ (d.ptr.toNat + i) / d.window = d.start.toNat / d.window)

theorem Device.HasRoom.inSpace {n : Nat} {d : Device} (h : d.HasRoom (n + 1)) : d.inSpace = true := by
  obtain ⟨-, -, hroom⟩ := h
  obtain ⟨hastray, hlt, -⟩ := hroom 0 n.succ_pos
  simpa [Device.inSpace, hastray] using hlt

theorem Device.HasRoom.inWindow {n : Nat} {d : Device} (h : d.HasRoom (n + 1)) : d.inWindow = true := by
  obtain ⟨-, -, hroom⟩ := h
  obtain ⟨-, -, hwindow⟩ := hroom 0 n.succ_pos
  simpa [Device.inWindow] using hwindow

theorem Device.HasRoom.advance {n : Nat} {d : Device} (h : d.HasRoom (n + 1)) : d.advance.HasRoom n := by
  obtain ⟨hpower, hspace, hroom⟩ := h
  refine ⟨hpower, hspace, fun i hi => ?_⟩
  obtain ⟨hastray, hlt, hwindow⟩ := hroom (i + 1) (Nat.succ_lt_succ hi)
  have hptr : d.advance.ptr.toNat = d.ptr.toNat + 1 := by
    change (d.ptr + 1).toNat = _
    rw [BitVec.toNat_add]
    exact Nat.mod_eq_of_lt (by simp; omega)
  rw [hptr, Nat.add_assoc, Nat.add_comm 1 i]
  refine ⟨?_, hlt, hwindow⟩
  simp only [Device.advance, hastray, Bool.false_or, decide_eq_false_iff_not]
  omega

/-- A page in the device has its room in the device. -/
theorem Device.hasRoom_of_pageInDevice {d : Device} {p n : Word} (h : pageInDevice d p n) (ph : Phase) :
    (d.addressed (pageAddress p n) ph).HasRoom n.toNat := by
  obtain ⟨hpower, hfits, hspace, hwindow⟩ := h
  refine ⟨hpower, hspace, fun i hi => ?_⟩
  have haddress : (pageAddress p n).toNat = p.toNat * n.toNat := by
    rw [pageAddress_toNat]
    exact Nat.mod_eq_of_lt (by omega)
  simp only [Device.addressed, haddress]
  refine ⟨trivial, by omega, hwindow.imp_right fun hsame => ?_⟩
  refine le_antisymm ?_ (Nat.div_le_div_right (Nat.le_add_right ..))
  rw [hsame]
  exact Nat.div_le_div_right (by omega)

/-! ## The bytes of a write frame -/

/-- The device after these bytes are stored from its current address on. -/
def Device.stores : List Byte → Device → Device
  | [], d => d
  | b :: bs, d => Device.stores bs (d.put b).advance

theorem Device.sees_data {bytes : List Byte} {d : Device} (hr : d.HasRoom bytes.length)
    (h : d.ph = .wr) : d.sees (bytes.map .byte) = d.stores bytes := by
  induction bytes generalizing d with
  | nil => rfl
  | cons b bs ih =>
    obtain ⟨hpower, -⟩ := id hr
    rw [List.map_cons, Device.sees, Device.see_byte hpower, Device.take_data h hr.inSpace hr.inWindow]
    exact ih (d := (d.put b).advance) (Device.HasRoom.advance (d := d.put b) hr) h

/-- Storing bytes changes the device's contents and moves its current address past them. -/
theorem Device.stores_keeps (bytes : List Byte) (d : Device) :
    d.stores bytes = { d with
      mem := (d.stores bytes).mem, settled := (d.stores bytes).settled
      astray := (d.stores bytes).astray, ptr := d.ptr + BitVec.ofNat 16 bytes.length } := by
  induction bytes generalizing d with
  | nil => simp [Device.stores]
  | cons b bs ih =>
    rw [Device.stores, ih, List.length_cons, ← ofNat_succ bs.length, ← BitVec.add_assoc]
    rfl

/-- A byte stored at none of the addresses of a run is still what the device holds there. -/
theorem Device.stores_content_of_ne {bytes : List Byte} {d : Device} {a : Word} (hwf : d.wf = true)
    (ha : ∀ i < bytes.length, a ≠ d.ptr + BitVec.ofNat 16 i) :
    (d.stores bytes).content a = d.content a := by
  induction bytes generalizing d with
  | nil => rfl
  | cons b bs ih =>
    have hfirst : a ≠ d.ptr := by simpa using ha 0 (Nat.succ_pos _)
    rw [Device.stores, ih (d := (d.put b).advance) (Device.put_wf b d hwf), Device.advance_content,
      Device.put_content b d a hwf, if_neg hfirst]
    intro i hi
    have hnext := ha (i + 1) (Nat.succ_lt_succ hi)
    rwa [← ofNat_succ, ← BitVec.add_assoc] at hnext

theorem devicePage_stores {bytes : List Byte} {d : Device} (hwf : d.wf = true)
    (hl : bytes.length ≤ 65536) : devicePage (d.stores bytes) d.ptr bytes.length = bytes := by
  induction bytes generalizing d with
  | nil => rfl
  | cons b bs ih =>
    rw [List.length_cons] at hl
    have hput : (d.put b).advance.wf = true := Device.put_wf b d hwf
    have hfirst : ((d.put b).advance.stores bs).content d.ptr = b := by
      rw [Device.stores_content_of_ne hput, Device.advance_content, Device.put_content b d _ hwf,
        if_pos rfl]
      intro i hi heq
      have hi' : BitVec.ofNat 16 (i + 1) = 0 := by
        rw [← ofNat_succ]
        exact left_eq_add.1 (heq.trans (BitVec.add_assoc ..))
      have := congrArg BitVec.toNat hi'
      simp at this
      omega
    rw [Device.stores, List.length_cons, devicePage, hfirst]
    exact congrArg (b :: ·) (ih (d := (d.put b).advance) hput (by omega))

/-! ## The bytes of a read frame -/

/-- Moving the current address on changes nothing but that, and whether it is past the end. -/
theorem Device.advance_iterate (n : Nat) (d : Device) : Device.advance^[n] d =
    { d with ptr := d.ptr + BitVec.ofNat 16 n, astray := (Device.advance^[n] d).astray } := by
  induction n generalizing d with
  | zero => simp
  | succ n ih =>
    rw [Function.iterate_succ_apply, ih, ← ofNat_succ n, ← BitVec.add_assoc]
    rfl

/-! ## The host's buffer -/

/-- The host's memory after these bytes are stored from host address `a` on. -/
def Memory.storePage (size : Nat) : Memory → Nat → List Byte → Memory
  | m, _, [] => m
  | m, a, b :: bs => Memory.storePage size (Memory.write m (a % size) b) (a + 1) bs

theorem Memory.read_storePage_of_ne {size : Nat} {m : Memory} {a c : Nat} {bytes : List Byte}
    (hm : Memory.wf size m = true) (hsize : 0 < size)
    (hc : ∀ i < bytes.length, c ≠ (a + i) % size) :
    Memory.read (Memory.storePage size m a bytes) c = Memory.read m c := by
  induction bytes generalizing m a with
  | nil => rfl
  | cons b bs ih =>
    rw [Memory.storePage, ih (Memory.wf_write b hm (Nat.mod_lt _ hsize)), Memory.read_write _ _ _ hm,
      if_neg]
    · simpa using hc 0 (Nat.succ_pos _)
    · intro i hi
      have hnext := hc (i + 1) (Nat.succ_lt_succ hi)
      rwa [Nat.add_comm i, ← Nat.add_assoc] at hnext

/-- A page stored in a buffer that fits the address space is the page in the buffer. -/
theorem pageAt_storePage {size : Nat} {m : Memory} {a : Nat} {bytes : List Byte}
    (hm : Memory.wf size m = true) (hl : bytes.length < size) :
    pageAt (Memory.storePage size m a bytes) size a bytes.length = bytes := by
  induction bytes generalizing m a with
  | nil => rfl
  | cons b bs ih =>
    rw [List.length_cons] at hl
    have hwrite : Memory.wf size (Memory.write m (a % size) b) = true :=
      Memory.wf_write b hm (Nat.mod_lt _ (by omega))
    have hfirst : Memory.read (Memory.storePage size m a (b :: bs)) (a % size) = b := by
      rw [Memory.storePage, Memory.read_storePage_of_ne hwrite (by omega)
        fun i hi => hostAddress_ne hi (by omega), Memory.read_write _ _ _ hm, if_pos rfl]
    rw [List.length_cons, pageAt, hfirst]
    exact congrArg (b :: ·) (ih hwrite (by omega))

end Sys2Proof.Machine
end

section
/-! SUPPORT. The family of 20_memory.md: the page commands on the reference device. -/

namespace Sys2Proof.Machine

open Sys2Proof.Safety

theorem nonFailing_append (ks ls : List Nat) :
    nonFailing (ks ++ ls) = nonFailing ks ++ nonFailing ls := List.map_append

theorem inBudget_nonFailing_append (budget : BitVec 32) (ks ls : List Nat) :
    inBudget budget (nonFailing (ks ++ ls)) ↔
      inBudget budget (nonFailing ks) ∧ inBudget budget (nonFailing ls) := by
  rw [nonFailing_append]
  exact List.forall_mem_append

theorem nonFailing_length (ks : List Nat) : (nonFailing ks).length = ks.length := List.length_map ..

/-- A list as long as two others together falls into two parts of their lengths. -/
theorem exists_append_of_length {α : Type} {l : List α} {m n : Nat} (h : l.length = m + n) :
    ∃ xs ys, l = xs ++ ys ∧ xs.length = m ∧ ys.length = n :=
  ⟨l.take m, l.drop m, (List.take_append_drop m l).symm, by simp [h], by simp [h]⟩

theorem bufferPage_length (s : State) : (bufferPage s).length = s.ps.toNat := pageAt_length ..

theorem writePageSends_eq (s : State) : writePageSends s =
    (.start :: (addressBytes s.pn s.ps).map .byte) ++ ((bufferPage s).map .byte ++ [.stop]) := by
  simp [writePageSends]

/-- WRITE_PAGE on a bus that completes its handshakes, as one record. -/
theorem writePageBody_done {s : State} {answers : List (Nat × Answer)} {rest : List Happening}
    (hl : answers.length = s.ps.toNat + 5) (h : s.env = completions answers ++ rest) :
    ∃ t events, writePageBody s = .ended t ∧ sentAs (writePageSends s) events ∧ t = { s with
        data := (bufferPage s).getLastD (lowByte (pageAddress s.pn s.ps))
        addr := pageAddress s.pn s.ps, written := { s.written with data := true, addr := true }
        seq := 4, idx := s.ps, done := true, result := .success, inframe := false, inited := true
        cfgTiming := Config.timingValue, late := false, trace := s.trace ++ events, env := rest
        dev := s.dev.follows answers (writePageSends s) } := by
  obtain ⟨xs, zs, rfl, hx, hz⟩ := exists_append_of_length (m := 4) (n := s.ps.toNat + 1)
    (hl.trans (by omega))
  obtain ⟨ys, zs, rfl, hy, hz⟩ := exists_append_of_length hz
  obtain ⟨⟨d, x⟩, rfl⟩ := List.length_eq_one_iff.1 hz
  rw [completions_append, completions_append, List.append_assoc, List.append_assoc] at h
  obtain ⟨t, es, e1, c1, q1⟩ := sendAddress_done hx h
  obtain ⟨u, fs, e2, c2, q2⟩ := writeBytes_done (s := setIdx 0 (setSeq 3 t)) hy
    (by rw [q1]; exact ⟨rfl, rfl, rfl, rfl⟩)
    (by have := s.ps.isLt; simpa [setIdx] using this) (by rw [q1]; rfl)
  obtain ⟨v, w, c3, e3, q3⟩ := transmit_done (e := .stop) (s := setSeq 4 u) (by rw [q2]; rfl)
  have hpage : pageAt (setIdx 0 (setSeq 3 t)).hostMem (hostSize (setIdx 0 (setSeq 3 t)))
      (byteAddress (setIdx 0 (setSeq 3 t))) s.ps.toNat = bufferPage s := by rw [q1]; rfl
  have hps : t.ps.toNat = s.ps.toNat := by rw [q1]
  rw [hpage] at c2 q2
  refine ⟨w, es ++ (fs ++ [v]), ?_, ?_, ?_⟩
  · rw [writePageBody, e1, Run.ended_andThen, hps, e2, Run.ended_andThen, e3]
  · rw [writePageSends_eq]
    exact List.rel_append c1 (List.rel_append c2 (.cons c3 .nil))
  · rw [q3, q2, q1, writePageSends_eq, Device.follows_append _ (by rw [hx]; rfl),
      Device.follows_append _ (by rw [hy, List.length_map, bufferPage_length])]
    simp [setIdx, setSeq, frameFlag, Device.follows, -List.getLastD_eq_getLast?]

/-- The page at an address depends on what the device holds alone. -/
theorem devicePage_congr (d d' : Device) (h : ∀ a, d'.content a = d.content a) (a : Word) (n : Nat) :
    devicePage d' a n = devicePage d a n := by
  induction n generalizing a with
  | zero => rfl
  | succ n ih => rw [devicePage, devicePage, h, ih]

theorem devicePage_length (d : Device) (a : Word) (n : Nat) : (devicePage d a n).length = n := by
  induction n generalizing a with
  | zero => rfl
  | succ n ih => rw [devicePage, List.length_cons, ih]

/-! ## WRITE_PAGE -/

/-- The device after a write frame of these bytes at address `a`. -/
def Device.pageWritten (a : Word) (bytes : List Byte) (d : Device) : Device :=
  { (d.addressed a .wr).stores bytes with ph := .idle }

theorem Device.sees_writePageSends {s : State} (h : pageInDevice s.dev s.pn s.ps) :
    s.dev.sees (writePageSends s) =
      s.dev.pageWritten (pageAddress s.pn s.ps) (bufferPage s) := by
  obtain ⟨hpower, -⟩ := id h
  have hroom := Device.hasRoom_of_pageInDevice h .wr
  rw [← bufferPage_length s] at hroom
  have hstored : ((s.dev.addressed (pageAddress s.pn s.ps) .wr).stores (bufferPage s)).powered = true := by
    rw [Device.stores_keeps]
    exact hpower
  rw [writePageSends_eq, Device.sees_append, Device.sees_address _ _ hpower, Device.sees_append,
    Device.sees_data hroom rfl]
  exact Device.see_stop hstored

theorem devicePage_pageWritten {d : Device} {bytes : List Byte} (a : Word) (hwf : d.wf = true)
    (hl : bytes.length ≤ 65536) : devicePage (d.pageWritten a bytes) a bytes.length = bytes := by
  have hstored := devicePage_stores (d := d.addressed a .wr) hwf hl
  exact (devicePage_congr ((d.addressed a .wr).stores bytes) (d.pageWritten a bytes) (fun _ => rfl) ..).trans
    hstored

/-- The page in the caller's buffer, written, is the page in the device. -/
theorem devicePage_bufferPage {s : State} {a : Word} (hwf : s.dev.wf = true) :
    devicePage (s.dev.pageWritten a (bufferPage s)) a s.ps.toNat = bufferPage s := by
  have hlength := bufferPage_length s
  have hwritten := devicePage_pageWritten (bytes := bufferPage s) a hwf
    (hlength ▸ s.ps.isLt.le)
  rwa [hlength] at hwritten

theorem Device.pageWritten_content_of_ne {d : Device} {bytes : List Byte} {a c : Word}
    (hwf : d.wf = true) (hc : ∀ i < bytes.length, c ≠ a + BitVec.ofNat 16 i) :
    (d.pageWritten a bytes).content c = d.content c :=
  Device.stores_content_of_ne (d := d.addressed a .wr) hwf hc

theorem Device.pageWritten_keeps (a : Word) (bytes : List Byte) (d : Device) :
    d.pageWritten a bytes = { d with
      mem := (d.pageWritten a bytes).mem, settled := (d.pageWritten a bytes).settled
      astray := (d.pageWritten a bytes).astray, start := a, ph := .idle
      ptr := a + BitVec.ofNat 16 bytes.length } := by
  unfold Device.pageWritten
  rw [Device.stores_keeps]
  rfl

/-- The state WRITE_PAGE ends in on the reference device, for the byte it sent last and the history. -/
def afterWritePage (data : Byte) (trace : List Event) (rest : List Happening) (s : State) : State :=
  { s with
    data := data, addr := pageAddress s.pn s.ps, written := { s.written with data := true, addr := true }
    op := none, seq := 0, idx := s.ps, done := true, result := .success, inframe := false
    inited := true, cfgTiming := Config.timingValue, late := false, trace := trace, env := rest
    dev := s.dev.pageWritten (pageAddress s.pn s.ps) (bufferPage s) }

theorem execWritePage_device {s : State} {polls : List Nat} {rest : List Happening}
    (hready : pageReady s) (hdev : pageInDevice s.dev s.pn s.ps) (hl : polls.length = s.ps.toNat + 5)
    (h : s.env = completions (nonFailing polls) ++ rest) :
    ∃ data trace, exec .writePage s = .next (afterWritePage data trace rest s) := by
  obtain ⟨hb, hm⟩ := hready
  obtain ⟨t, _, e, -, q⟩ := writePageBody_done (s := launch .writePage s)
    (answers := nonFailing polls) ((nonFailing_length polls).trans hl) h
  have hsends : writePageSends (launch .writePage s) = writePageSends s := rfl
  have hlength : polls.length = (writePageSends s).length := by
    simp [hl, writePageSends, addressBytes, bufferPage_length]
  rw [hsends, Device.follows_nonFailing _ hlength, launch_dev, Device.sees_writePageSends hdev] at q
  refine ⟨t.data, t.trace, ?_⟩
  rw [exec_ready (i := .writePage) hb hm, body, e, Run.outcome, q]
  simp [finish, launch, hb, afterWritePage]

/-- Settles O36: the bytes of the write frame are stored one after the other in the device's range. -/
theorem writePageWritesTheDevice : Obligations.WritePageWritesTheDevice := by
  unfold Obligations.WritePageWritesTheDevice
  intro s polls rest hready hwf hdev hl henv
  obtain ⟨data, trace, ht⟩ := execWritePage_device hready hdev hl henv
  have hlength := bufferPage_length s
  have hkeeps := Device.pageWritten_keeps (pageAddress s.pn s.ps) (bufferPage s) s.dev
  rw [hlength, BitVec.ofNat_toNat, BitVec.setWidth_eq] at hkeeps
  refine ⟨_, ht, rfl, devicePage_bufferPage hwf, fun c hc => ?_, ?_, rfl, ?_⟩
  · exact Device.pageWritten_content_of_ne hwf (hlength ▸ hc)
  · exact congrArg Device.ptr hkeeps
  · exact (congrArg Device.strays hkeeps :)

/-! ## READ_PAGE -/

/-- One byte of READ_PAGE on the reference device: the buffer takes the byte at its current address. -/
theorem readBytes_device_next {n : Nat} {s : State} {d : Nat} {rest : List Happening}
    (hb : d < s.retryBudget.toNat) (hroom : s.dev.HasRoom (n + 1)) (hph : s.dev.ph = .rd)
    (h : s.env = .reply (.complete d .device) :: rest) :
    ∃ t, readBytes (n + 1) s = readBytes n t ∧ t = { s with
      data := t.data, written := t.written, ackf := t.ackf, cnt := t.cnt, done := t.done
      result := t.result, late := t.late, trace := t.trace, draws := t.draws, idx := s.idx + 1, env := rest
      hostMem := Memory.write s.hostMem (byteAddress s % hostSize s) (s.dev.content s.dev.ptr)
      dev := s.dev.advance } := by
  obtain ⟨hpower, -⟩ := id hroom
  obtain ⟨t, e, q⟩ := receive_done (k := ackByPosition s) (i := some s.idx) h hb
  have hdata : inboundByte .device s = s.dev.content s.dev.ptr :=
    devByte_of_defined ((devDefines_iff s).2 ⟨hpower, hph, hroom.inSpace⟩)
  have hdev : (inbound .device s).dev = s.dev.advance := (devRead_dev s).trans (if_pos ⟨hpower, hph⟩)
  rw [hdata, hdev] at q
  refine ⟨setIdx (t.idx + 1) (memWrite (byteAddress t) t.data t), ?_, ?_⟩
  · rw [readBytes, e, abortRead, Run.ended_andThen]
  · rw [q]
    rfl

/-- Step 4 of READ_PAGE on the reference device: the buffer takes the bytes from its current address on. -/
theorem readBytes_device {n : Nat} {s : State} {polls : List Nat} {rest : List Happening}
    (hn : polls.length = n) (hi : s.idx.toNat + n < 65536) (hb : inBudget s.retryBudget (nonFailing polls))
    (hroom : s.dev.HasRoom n) (hph : s.dev.ph = .rd) (h : s.env = completions (nonFailing polls) ++ rest) :
    ∃ t, readBytes n s = .ended t ∧ t.env = rest ∧ t.dev = Device.advance^[n] s.dev ∧
      t.hostMem = Memory.storePage (hostSize s) s.hostMem (byteAddress s)
        (devicePage s.dev s.dev.ptr n) := by
  induction n generalizing s polls with
  | zero =>
    obtain rfl := List.length_eq_zero_iff.1 hn
    exact ⟨s, rfl, h, rfl, rfl⟩
  | succ n ih =>
    obtain ⟨k, ks, rfl⟩ := List.exists_cons_of_length_eq_add_one hn
    obtain ⟨hk, hks⟩ := List.forall_mem_cons.1 hb
    obtain ⟨t, e, q⟩ := readBytes_device_next (rest := completions (nonFailing ks) ++ rest) hk hroom hph h
    have hidx : t.idx = s.idx + 1 := by rw [q]
    have hdev : t.dev = s.dev.advance := by rw [q]
    have hnext : byteAddress t = byteAddress s + 1 := byteAddress_next (by rw [q]) hidx (by omega)
    have hsize : hostSize t = hostSize s := by rw [q]; rfl
    obtain ⟨u, e2, henv, hu, hmem⟩ := ih (s := t) (polls := ks) (by simpa using hn)
      (by rw [hidx, BitVec.toNat_add]; simp; omega) (by rw [q]; exact hks)
      (hdev ▸ hroom.advance) (hdev ▸ hph) (by rw [q])
    have hbehind : devicePage t.dev t.dev.ptr n = devicePage s.dev (s.dev.ptr + 1) n := by
      rw [hdev]
      exact devicePage_congr s.dev s.dev.advance (fun _ => rfl) ..
    refine ⟨u, e.trans e2, henv, hu.trans (hdev ▸ rfl), ?_⟩
    rw [hmem, hnext, hsize, hbehind, q]
    rfl

/-- READ_PAGE on the reference device. -/
theorem execReadPage_device {s : State} {polls : List Nat} {rest : List Happening}
    (hready : pageReady s) (hdev : pageInDevice s.dev s.pn s.ps) (hl : polls.length = s.ps.toNat + 8)
    (hb : inBudget s.retryBudget (nonFailing polls)) (h : s.env = completions (nonFailing polls) ++ rest) :
    ∃ t, exec .readPage s = .next t ∧ t.result = .success ∧
      t.hostMem = Memory.storePage (hostSize s) s.hostMem s.buf
        (devicePage s.dev (pageAddress s.pn s.ps) s.ps.toNat) ∧
      t.dev = { Device.advance^[s.ps.toNat] (s.dev.addressed (pageAddress s.pn s.ps) .rd) with
        ph := .idle } := by
  obtain ⟨hbusy, hm⟩ := hready
  obtain ⟨hpower, -⟩ := id hdev
  obtain ⟨xs, zs, rfl, hx, hz⟩ := exists_append_of_length (m := 7) (n := s.ps.toNat + 1)
    (hl.trans (by omega))
  obtain ⟨ys, zs, rfl, hy, hz⟩ := exists_append_of_length hz
  obtain ⟨k, rfl⟩ := List.length_eq_one_iff.1 hz
  rw [nonFailing_append, nonFailing_append, completions_append, completions_append,
    List.append_assoc, List.append_assoc] at h
  rw [inBudget_nonFailing_append, inBudget_nonFailing_append] at hb
  obtain ⟨-, hreads, -⟩ := hb
  obtain ⟨t, _, e1, -, q1⟩ := readPageBody_begins (s := launch .readPage s)
    ((nonFailing_length xs).trans hx) h
  have hsends : readPageSends (launch .readPage s) = readPageSends s := rfl
  rw [hsends, launch_dev, Device.follows_nonFailing _ (by rw [hx]; rfl),
    Device.sees_readPageSends hpower] at q1
  have htdev : t.dev = s.dev.addressed (pageAddress s.pn s.ps) .rd := by rw [q1]
  obtain ⟨u, e2, henv, hu, hmem⟩ := readBytes_device (s := t) hy
    (by have := s.ps.isLt; rw [q1]; simpa using this) (by rw [q1]; exact hreads)
    (by rw [htdev]; exact Device.hasRoom_of_pageInDevice hdev .rd) (by rw [htdev]; rfl) (by rw [q1])
  obtain ⟨v, w, -, e3, q3⟩ := transmit_done (e := .stop) (s := setSeq 5 u)
    (d := k) (x := .device) (rest := rest) henv
  refine ⟨finish w, ?_, by rw [q3]; rfl, ?_, ?_⟩
  · rw [exec_ready (i := .readPage) hbusy hm, body, e1, launch_ps, e2, Run.ended_andThen, e3, Run.outcome]
  · have hw : (finish w).hostMem = u.hostMem := by rw [q3]; rfl
    have hbehind : devicePage t.dev t.dev.ptr s.ps.toNat =
        devicePage s.dev (pageAddress s.pn s.ps) s.ps.toNat := by
      rw [htdev]
      exact devicePage_congr s.dev (s.dev.addressed _ .rd) (fun _ => rfl) ..
    rw [hw, hmem, hbehind, q1]
    rfl
  · have hw : (finish w).dev = u.dev.see .stop := by rw [q3]; rfl
    rw [hw, Device.see_stop (by rw [hu, Device.advance_iterate, htdev]; exact hpower), hu, htdev]

/-- Settles O35: the read frame starts at the page's address, to which the write frame before it has moved
the device. -/
theorem readPageReadsTheDevice : Obligations.ReadPageReadsTheDevice := by
  unfold Obligations.ReadPageReadsTheDevice
  intro s polls rest hready hwf hdev hl hb henv
  obtain ⟨t, ht, hresult, hmem, htdev⟩ := execReadPage_device hready hdev hl hb henv
  have hlength := devicePage_length s.dev (pageAddress s.pn s.ps) s.ps.toNat
  obtain ⟨-, hm⟩ := hready
  have hpage := pageAt_storePage (size := hostSize s) (a := s.buf) hwf
    (hlength ▸ needPage_fits hm)
  rw [hlength] at hpage
  refine ⟨t, ht, hresult, hmem ▸ hpage, ?_⟩
  rw [htdev, Device.advance_iterate]
  exact ⟨fun _ => rfl, by simp [Device.addressed], rfl⟩

/-! ## The round trip -/

/-- Settles O37: what WRITE_PAGE leaves in the device is what READ_PAGE, whose premises it keeps, fetches. -/
theorem pageRoundTrip : Obligations.PageRoundTrip := by
  unfold Obligations.PageRoundTrip
  intro s buf2 polls rest hready hready2 hinv hdev hl hb henv
  obtain ⟨hhost, hwf, -⟩ := hinv
  obtain ⟨ks, ls, rfl, hk, hls⟩ := exists_append_of_length hl
  rw [nonFailing_append, completions_append, List.append_assoc] at henv
  obtain ⟨data, trace, ht⟩ := execWritePage_device hready hdev hk henv
  have hpage := devicePage_bufferPage (a := pageAddress s.pn s.ps) hwf
  have hdev' : pageInDevice (s.dev.pageWritten (pageAddress s.pn s.ps) (bufferPage s)) s.pn s.ps := by
    rw [Device.pageWritten_keeps]
    exact hdev
  obtain ⟨-, hread⟩ := (inBudget_nonFailing_append ..).1 hb
  obtain ⟨u, hu, hresult, hfetched, -⟩ := readPageReadsTheDevice
    { afterWritePage data trace (completions (nonFailing ls) ++ rest) s with buf := buf2 } ls rest
    hready2 hhost hdev' hls hread rfl
  exact ⟨_, u, ht, hu, hresult, hfetched.trans hpage⟩

end Sys2Proof.Machine
end

section
/-! SUPPORT. The family of 30_encoding.md: the command byte, read field by field. -/

namespace Sys2Proof.Machine

/-! ## The command byte -/

/-- A byte is its three fields (30_encoding.md rule R58). -/
theorem fields_append (b : Byte) : zeroField b ++ ackField b ++ opField b = b := by
  have hack : zeroField b ++ ackField b = b.extractLsb' 4 4 :=
    BitVec.extractLsb'_append_extractLsb'_eq_extractLsb' rfl
  have hop : b.extractLsb' 4 4 ++ opField b = b.extractLsb' 0 8 :=
    BitVec.extractLsb'_append_extractLsb'_eq_extractLsb' rfl
  rw [hack]
  exact hop.trans BitVec.extractLsb'_eq_self

theorem decode_encode (i : Instr) : decode (encode i) = .ok i := by
  cases i with
  | init => exact Laws.EncodeRoundTrip.init.2.1
  | start => exact Laws.EncodeRoundTrip.start.2.1
  | stop => exact Laws.EncodeRoundTrip.stop.2.1
  | writeByte => exact Laws.EncodeRoundTrip.writeByte.2.1
  | readByte k => exact (Laws.EncodeRoundTrip.readByte k).2.1
  | readPage => exact Laws.EncodeRoundTrip.readPage.2.1
  | writePage => exact Laws.EncodeRoundTrip.writePage.2.1

/-- The three fields of a byte are those of this command. -/
def HasFieldsOf (i : Instr) (b : Byte) : Prop :=
  zeroField b = 0 ∧ ackField b = ackBitOf i ∧ opField b = opcodeOf i

theorem HasFieldsOf.encode_eq {i : Instr} {b : Byte} (h : HasFieldsOf i b) : encode i = b := by
  obtain ⟨hzero, hack, hop⟩ := h
  rw [encode, ← hack, ← hop, ← hzero]
  exact fields_append b

theorem hasFieldsOf_of_plain {i j : Instr} {b : Byte} (h : plain i b = .ok j)
    (hzero : zeroField b = 0) (hack : ackBitOf i = 0) (hop : opField b = opcodeOf i) :
    HasFieldsOf j b := by
  unfold plain at h
  split at h
  · cases h
    exact ⟨hzero, ‹ackField b = 0›.trans hack.symm, hop⟩
  · cases h

theorem ackBitOf_readByteOf (b : Byte) : ackBitOf (readByteOf b) = ackField b := by
  unfold readByteOf
  split
  · exact Eq.symm ‹ackField b = 1›
  · exact ((BitVec.eq_zero_or_eq_one _).resolve_right ‹_›).symm

/-- The decoder drops no bit: each of its branches fixes all three fields. -/
theorem hasFieldsOf_of_decode {b : Byte} {i : Instr} (h : decode b = .ok i) : HasFieldsOf i b := by
  unfold decode at h
  split_ifs at h with hzero hinit hstart hstop hwrite hread hreadPage hwritePage
  all_goals replace hzero := not_not.1 hzero
  · exact hasFieldsOf_of_plain h hzero rfl hinit
  · exact hasFieldsOf_of_plain h hzero rfl hstart
  · exact hasFieldsOf_of_plain h hzero rfl hstop
  · exact hasFieldsOf_of_plain h hzero rfl hwrite
  · cases h
    refine ⟨hzero, (ackBitOf_readByteOf b).symm, ?_⟩
    unfold readByteOf
    split <;> exact hread
  · exact hasFieldsOf_of_plain h hzero rfl hreadPage
  · exact hasFieldsOf_of_plain h hzero rfl hwritePage

theorem encode_of_decode {b : Byte} {i : Instr} (h : decode b = .ok i) : encode i = b :=
  (hasFieldsOf_of_decode h).encode_eq

/-- Settles O2: forth command by command, back field by field. -/
theorem decodeAndEncodeAgree : Obligations.DecodeAndEncodeAgree :=
  ⟨fun i _ => decode_encode i, fun _ _ h => encode_of_decode h⟩

/-- Settles O1: each byte of the table is the encoding of its command. -/
theorem commandBytesDecodeAsTabled : Obligations.CommandBytesDecodeAsTabled :=
  ⟨decode_encode .init, decode_encode .start, decode_encode .stop, decode_encode .writeByte,
    decode_encode (.readByte .term), decode_encode (.readByte .cont), decode_encode .readPage,
    decode_encode .writePage⟩

/-- Only the eight bytes of the table encode a command. -/
theorem encode_mem_legal (i : Instr) :
    encode i ∈ ([0x01, 0x02, 0x03, 0x04, 0x05, 0x15, 0x08, 0x09] : List Byte) := by
  cases i with
  | readByte k => cases k <;> decide
  | _ => decide

/-- Settles O3: a byte that decodes is an encoding, and every encoding is in the table. -/
theorem reservedBytesAreRefused : Obligations.ReservedBytesAreRefused := by
  unfold Obligations.ReservedBytesAreRefused
  intro s b rest hb h hreserved
  cases hd : decode b with
  | ok i => exact absurd (encode_of_decode hd ▸ encode_mem_legal i) hreserved
  | error why => exact ⟨why, rfl, by rw [step_write_cmd hb h, writeCmd, hd]⟩

end Sys2Proof.Machine
end

section
/-! SUPPORT. The family of 30_encoding.md: a page command and the host's own sequence of primitives,
side by side. -/

namespace Sys2Proof.Machine

open Sys2Proof.Safety

/-! ## What a page command keeps for itself -/

/-- The state elements in which a page command differs from its primitives by hand: the sequencer's
registers, the translated address and its mark, the host's memory, and what arrives later. -/
structure Control where
  busy : Bool
  op : Option (BitVec 4)
  seq : BitVec 3
  idx : Word
  addr : Word
  held : Bool
  hostMem : Memory
  inputs : List Input

/-- The state with these elements in the place of its own. -/
def Control.over (r : Control) (v : State) : State :=
  { v with
    busy := r.busy, op := r.op, seq := r.seq, idx := r.idx, addr := r.addr
    written := { v.written with addr := r.held }, hostMem := r.hostMem, inputs := r.inputs }

/-- The elements of a state that has just launched a command. -/
def Control.launched (i : Instr) (s : State) : Control where
  busy := true
  op := some (opcodeOf i)
  seq := s.seq
  idx := s.idx
  addr := s.addr
  held := s.written.addr
  hostMem := s.hostMem
  inputs := s.inputs

theorem finish_over {w : State} (hw : finish w = w) (r : Control) : finish (r.over w) =
    { w with
      addr := r.addr, idx := r.idx, hostMem := r.hostMem, inputs := r.inputs
      written := { w.written with addr := r.held } } := by
  calc finish (r.over w) = { finish w with
          addr := r.addr, idx := r.idx, hostMem := r.hostMem, inputs := r.inputs
          written := { w.written with addr := r.held } } := rfl
    _ = _ := by rw [hw]

/-! ## The primitives look at none of it -/

/-- What a completed outbound primitive leaves, issued by hand. -/
def sent (e : Outbound) (x : Answer) (rest : List Happening) (v : State) : State :=
  finish (markComplete e (deliver e x { clearDone v with env := rest }))

/-- What an inbound byte that arrived in time leaves, issued by hand. -/
def received (k : AckFlag) (x : Answer) (d : Nat) (rest : List Happening) (v : State) : State :=
  finish (acceptByte k x d { requested k v with env := rest })

theorem deliver_over (r : Control) (e : Outbound) (x : Answer) (v : State) :
    deliver e x (r.over v) = r.over (deliver e x v) := by
  have hevent : eventOf e x (r.over v) = eventOf e x v := by
    cases e with
    | byte b => cases x <;> rfl
    | start => rfl
    | stop => rfl
  rw [deliver, hevent, deliver, reachIf_eq, reachIf_dev, reachIf_eq _ _ v, reachIf_dev]
  rfl

theorem transmit_over {r : Control} {e : Outbound} {v : State} {d : Nat} {x : Answer}
    {rest : List Happening} (h : v.env = .reply (.complete d x) :: rest) :
    transmit e (r.over v) = .ended (r.over (sent e x rest v)) := by
  have hcomplete : transmit e (r.over v) =
      .ended (markComplete e (deliver e x (r.over { clearDone v with env := rest }))) :=
    transmit_complete h
  rw [hcomplete, deliver_over]
  cases e <;> rfl

theorem inbound_over (r : Control) (x : Answer) (v : State) :
    inbound x (r.over v) = r.over (inbound x v) := by
  cases x with
  | device =>
    rw [inbound, inbound, devRead_eq, devRead_dev, devRead_draws, devRead_eq v, devRead_dev,
      devRead_draws]
    rfl
  | other b a => rfl

theorem receive_over {r : Control} {k : AckFlag} {i : Option Word} {v : State} {d : Nat} {x : Answer}
    {rest : List Happening} (h : v.env = .reply (.complete d x) :: rest)
    (hd : d < v.retryBudget.toNat) :
    receive k i (r.over v) = .ended (r.over (received k x d rest v)) := by
  have hbyte : ∀ w, inboundByte x (r.over w) = inboundByte x w := fun w => by cases x <;> rfl
  have hcomplete : receive k i (r.over v) =
      .ended (acceptByte k x d (r.over { requested k v with env := rest })) := receive_complete h hd
  rw [hcomplete, acceptByte, hbyte, inbound_over]
  rfl

/-! ## The host's run by hand -/

theorem run_succ {M : Host.Core} {s t : M.State} (h : M.step s = .next t) (n : Nat) :
    M.run (n + 1) s = M.run n t := by rw [Host.Core.run, h]

theorem run_add {M : Host.Core} {m : Nat} {s t : M.State} (h : M.run m s = .next t) (n : Nat) :
    M.run (m + n) s = M.run n t := by
  induction m generalizing s with
  | zero =>
    cases h
    rw [Nat.zero_add]
  | succ m ih =>
    rw [Nat.add_right_comm, Host.Core.run]
    rw [Host.Core.run] at h
    cases hstep : M.step s with
    | next u =>
      rw [hstep] at h
      exact ih h
    | fault r => rw [hstep] at h; cases h
    | refused r => rw [hstep] at h; cases h

/-- With these arrivals next the host takes the block from `v` to `w`, whatever arrives behind them. -/
def ByHand (ins : List Input) (v w : State) : Prop :=
  ∀ more, Host.Core.run core ins.length { v with inputs := ins ++ more } =
    .next { w with inputs := more }

theorem ByHand.one {x : Input} {v w : State}
    (h : ∀ more, step { v with inputs := x :: more } = .next { w with inputs := more }) :
    ByHand [x] v w := fun more =>
  run_succ (M := core) (show core.step { v with inputs := x :: more } = _ from h more) 0

theorem ByHand.append {a b : List Input} {u v w : State} (h : ByHand a u v) (h' : ByHand b v w) :
    ByHand (a ++ b) u w := by
  intro more
  rw [List.length_append, List.append_assoc]
  exact (run_add (M := core) (h (b ++ more)) b.length).trans (h' more)

/-- What a primitive by hand leaves alone, on its way from `v` to an idle block. -/
structure HandKeeps (v w : State) : Prop where
  idle : finish w = w
  pn : w.pn = v.pn
  ps : w.ps = v.ps
  buf : w.buf = v.buf
  addr : w.addr = v.addr
  held : w.written.addr = v.written.addr
  idx : w.idx = v.idx
  retryBudget : w.retryBudget = v.retryBudget
  hostAw : w.hostAw = v.hostAw
  hostMem : w.hostMem = v.hostMem

theorem HandKeeps.trans {u v w : State} (h : HandKeeps u v) (h' : HandKeeps v w) : HandKeeps u w where
  idle := h'.idle
  pn := h'.pn.trans h.pn
  ps := h'.ps.trans h.ps
  buf := h'.buf.trans h.buf
  addr := h'.addr.trans h.addr
  held := h'.held.trans h.held
  idx := h'.idx.trans h.idx
  retryBudget := h'.retryBudget.trans h.retryBudget
  hostAw := h'.hostAw.trans h.hostAw
  hostMem := h'.hostMem.trans h.hostMem

theorem HandKeeps.busy {v w : State} (h : HandKeeps v w) : w.busy = false :=
  (congrArg State.busy h.idle).symm

theorem sent_keeps (e : Outbound) (x : Answer) (rest : List Happening) (v : State) :
    HandKeeps v (sent e x rest v) := by
  refine ⟨rfl, ?_, ?_, ?_, ?_, ?_, ?_, ?_, ?_, ?_⟩ <;> simp [sent]

theorem received_keeps (k : AckFlag) (x : Answer) (d : Nat) (rest : List Happening) (v : State) :
    HandKeeps v (received k x d rest v) := by
  refine ⟨rfl, ?_, ?_, ?_, ?_, ?_, ?_, ?_, ?_, ?_⟩ <;> simp [received]

/-- A command byte written to `CMD` runs its command, when nothing it requires is missing. -/
theorem byHand_cmd {i : Instr} {v w : State} (hb : v.busy = false) (hm : missing i v = none)
    (hk : HandKeeps v w) (hrun : ∀ r : Control, body i v (r.over v) = .ended (r.over w)) :
    ByHand [cmd (encode i)] v w := by
  refine ByHand.one fun more => ?_
  have hmissing : missing i { v with inputs := more } = none := by cases i <;> exact hm
  have hbody : body i { v with inputs := more } (launch i { v with inputs := more }) =
      .ended ({ Control.launched i v with inputs := more }.over w) := by
    rw [← hrun]
    cases i <;> rfl
  rw [stepRunsTheDecodedCommand { v with inputs := cmd (encode i) :: more } (encode i) i more hb rfl
    (decode_encode i) (by cases i <;> rfl)]
  refine (exec_ready (s := { v with inputs := more }) hb hmissing).trans ?_
  rw [hbody, Run.outcome, finish_over hk.idle]
  simp [Control.launched, ← hk.addr, ← hk.idx, ← hk.hostMem, ← hk.held]

/-! ## Where the host stands between its primitives -/

/-- The host, started in `s`, has issued some primitives, INIT among them, and stands in `v`, with a frame
open or not and this schedule to come. -/
structure AtHand (s : State) (isOpen : Bool) (env : List Happening) (v : State) : Prop where
  keeps : HandKeeps s v
  inited : v.inited = true
  inframe : v.inframe = isOpen
  env : v.env = env

section

variable {s v : State} {isOpen : Bool} {d : Nat} {x : Answer} {rest : List Happening}

theorem byHand_init (hb : s.busy = false) : ByHand [cmd 0x01] s (finish (configure s)) :=
  byHand_cmd (i := .init) hb rfl ⟨rfl, rfl, rfl, rfl, rfl, rfl, rfl, rfl, rfl, rfl⟩ fun _ => rfl

theorem AtHand.sent (e : Outbound) (h : AtHand s isOpen (.reply (.complete d x) :: rest) v) :
    AtHand s (frameFlag e isOpen) rest (sent e x rest v) where
  keeps := h.keeps.trans (sent_keeps e x rest v)
  inited := by simp [Machine.sent, h.inited]
  inframe := by cases e <;> simp [Machine.sent, frameFlag, h.inframe]
  env := by simp [Machine.sent]

theorem AtHand.received (k : AckFlag) (h : AtHand s isOpen (.reply (.complete d x) :: rest) v) :
    AtHand s isOpen rest (received k x d rest v) where
  keeps := h.keeps.trans (received_keeps k x d rest v)
  inited := by simp [Machine.received, h.inited]
  inframe := by simp [Machine.received, h.inframe]
  env := by simp [Machine.received]

/-- A write of `DATA` leaves the host where it stands. -/
theorem AtHand.setData (b : Byte) {env : List Happening} (h : AtHand s isOpen env v) :
    AtHand s isOpen env (setData b v) where
  keeps := h.keeps.trans
    ⟨congrArg (Machine.setData b) h.keeps.idle, rfl, rfl, rfl, rfl, rfl, rfl, rfl, rfl, rfl⟩
  inited := h.inited
  inframe := h.inframe
  env := h.env

theorem AtHand.needInited {env : List Happening} (h : AtHand s isOpen env v) : needInited v = none := by
  rw [Machine.needInited, h.inited, if_pos rfl]

theorem AtHand.needFrame {env : List Happening} (h : AtHand s true env v) : needFrame v = none := by
  rw [Machine.needFrame, h.needInited, h.inframe]
  rfl

theorem AtHand.byHand_start (h : AtHand s isOpen (.reply (.complete d x) :: rest) v) :
    ByHand [cmd 0x02] v (Machine.sent .start x rest v) :=
  byHand_cmd (i := .start) h.keeps.busy h.needInited (sent_keeps ..) fun _ => transmit_over h.env

theorem AtHand.byHand_stop (h : AtHand s true (.reply (.complete d x) :: rest) v) :
    ByHand [cmd 0x03] v (Machine.sent .stop x rest v) :=
  byHand_cmd (i := .stop) h.keeps.busy h.needFrame (sent_keeps ..) fun _ => transmit_over h.env

theorem AtHand.byHand_data (b : Byte) {env : List Happening} (h : AtHand s isOpen env v) :
    ByHand [.access (.wr 8 0x02 b)] v (Machine.setData b v) := by
  refine ByHand.one fun more => ?_
  rw [step_write_idle (s := { v with inputs := .access (.wr 8 0x02 b) :: more }) h.keeps.busy rfl
    (by decide) rfl]
  rw [writeAt, if_pos rfl, BitVec.ofNat_toNat, BitVec.setWidth_eq]
  rfl

theorem AtHand.byHand_sendByte (b : Byte) (h : AtHand s true (.reply (.complete d x) :: rest) v) :
    ByHand (sendByHand b) v (Machine.sent (.byte b) x rest (Machine.setData b v)) := by
  have hdata := h.setData b
  refine (h.byHand_data b).append (b := [cmd 0x04]) ?_
  refine byHand_cmd (i := .writeByte) hdata.keeps.busy ?_ (sent_keeps ..) fun _ => transmit_over hdata.env
  rw [missing, needData, hdata.needFrame]
  rfl

theorem AtHand.byHand_readByte (k : AckFlag) (h : AtHand s true (.reply (.complete d x) :: rest) v)
    (hd : d < s.retryBudget.toNat) :
    ByHand [cmd (encode (.readByte k))] v (Machine.received k x d rest v) :=
  byHand_cmd (i := .readByte k) h.keeps.busy h.needFrame (received_keeps ..) fun _ =>
    receive_over h.env (by rwa [h.keeps.retryBudget])

/-! ## The page command beside the host -/

/-- The run `x` of the page command ends where the host, by these arrivals, comes from `v`, but for the
elements of `Control`; `C` holds of those and of the host's end. -/
def Matched (x : Run) (ins : List Input) (v : State) (C : Control → State → Prop) : Prop :=
  ∃ r w, x = .ended (r.over w) ∧ ByHand ins v w ∧ C r w

theorem Matched.andThen {x : Run} {f : State → Run} {a b : List Input} {v : State}
    {C C' : Control → State → Prop} (h : Matched x a v C)
    (hf : ∀ r w, C r w → Matched (f (r.over w)) b w C') : Matched (x.andThen f) (a ++ b) v C' := by
  obtain ⟨r, w, rfl, hw, hC⟩ := h
  obtain ⟨r', w', hx, hw', hC'⟩ := hf r w hC
  exact ⟨r', w', hx, hw.append hw', hC'⟩

theorem Matched.mono {x : Run} {a : List Input} {v : State} {C C' : Control → State → Prop}
    (h : Matched x a v C) (hC : ∀ r w, C r w → C' r w) : Matched x a v C' := by
  obtain ⟨r, w, hx, hw, h⟩ := h
  exact ⟨r, w, hx, hw, hC r w h⟩

/-- The page command keeps these elements, and the host stands as said. -/
def Standing (s : State) (r : Control) (isOpen : Bool) (env : List Happening) (r' : Control)
    (w : State) : Prop := r' = r ∧ AtHand s isOpen env w

theorem matched_init {a : Reply} (hb : s.busy = false) (h : s.env = .reply a :: rest) (r : Control) :
    Matched (paced initialise (setSeq 1 (r.over s))) [cmd 0x01] s
      (Standing s { r with seq := 1 } s.inframe s.env) :=
  ⟨{ r with seq := 1 }, finish (configure s), paced_init (s := r.over s) h, byHand_init hb, rfl,
    ⟨rfl, rfl, rfl, rfl, rfl, rfl, rfl, rfl, rfl, rfl⟩, rfl, rfl, rfl⟩

/-- An outbound primitive, from what issues it by hand. -/
theorem matched_transmit {e : Outbound} {ins : List Input}
    (h : AtHand s isOpen (.reply (.complete d x) :: rest) v)
    (hhand : ByHand ins v (Machine.sent e x rest v)) (r : Control) :
    Matched (paced (transmit e) (r.over v)) ins v (Standing s r (frameFlag e isOpen) rest) :=
  ⟨r, _, (paced_reply (s := r.over v) h.env).trans (transmit_over h.env), hhand, rfl, h.sent e⟩

theorem matched_start (h : AtHand s isOpen (.reply (.complete d x) :: rest) v) (r : Control) :
    Matched (paced (transmit .start) (r.over v)) [cmd 0x02] v (Standing s r true rest) :=
  matched_transmit h h.byHand_start r

theorem matched_stop (h : AtHand s true (.reply (.complete d x) :: rest) v) (r : Control) :
    Matched (paced (transmit .stop) (r.over v)) [cmd 0x03] v (Standing s r false rest) :=
  matched_transmit h h.byHand_stop r

theorem matched_sendByte (b : Byte) (h : AtHand s true (.reply (.complete d x) :: rest) v) (r : Control) :
    Matched (paced (sendByte b) (r.over v)) (sendByHand b) v (Standing s r true rest) :=
  ⟨r, _, (paced_reply (s := r.over v) h.env).trans (transmit_over (v := setData b v) h.env),
    h.byHand_sendByte b, rfl, (h.setData b).sent (.byte b)⟩

theorem matched_readByte (k : AckFlag) (i : Option Word)
    (h : AtHand s true (.reply (.complete d x) :: rest) v) (hd : d < s.retryBudget.toNat) (r : Control) :
    Matched (paced (receive k i) (r.over v)) [cmd (encode (.readByte k))] v (Standing s r true rest) :=
  ⟨r, _, (paced_reply (s := r.over v) h.env).trans
      (receive_over h.env (by rwa [h.keeps.retryBudget])),
    h.byHand_readByte k hd, rfl, h.received k⟩

/-- Steps 1 and 2 of a page command. -/
theorem matched_sendAddress {xs : List (Nat × Answer)} (hb : s.busy = false) (hx : xs.length = 4)
    (h : s.env = completions xs ++ rest) (r : Control) :
    Matched (sendAddress (r.over s)) (addressByHand s.pn s.ps) s
      (Standing s { r with seq := 2, addr := pageAddress s.pn s.ps, held := true } true rest) := by
  obtain ⟨x1, x2, x3, x4, rfl⟩ := List.length_eq_four.1 hx
  have hinputs : addressByHand s.pn s.ps = [cmd 0x01] ++ ([cmd 0x02] ++ (sendByHand writeIntent ++
      (sendByHand (highByte (pageAddress s.pn s.ps)) ++
        sendByHand (lowByte (pageAddress s.pn s.ps))))) := rfl
  rw [hinputs]
  refine (matched_init hb h r).andThen ?_
  rintro _ u ⟨rfl, hu⟩
  rw [h] at hu
  have htranslate : translate (setSeq 2 ({ r with seq := 1 }.over u)) =
      { r with seq := 2, addr := pageAddress s.pn s.ps, held := true }.over u := by
    rw [← hu.keeps.pn, ← hu.keeps.ps]
    rfl
  rw [htranslate]
  refine (matched_start hu _).andThen ?_
  rintro _ v ⟨rfl, hv⟩
  refine (matched_sendByte _ hv _).andThen ?_
  rintro _ w ⟨rfl, hw⟩
  refine (matched_sendByte _ hw _).andThen ?_
  rintro _ y ⟨rfl, hy⟩
  exact matched_sendByte _ hy _

/-- Step 3 of WRITE_PAGE, which moves `IDX` only. -/
theorem matched_writeBytes {n : Nat} {xs : List (Nat × Answer)} {r : Control}
    (h : AtHand s true (completions xs ++ rest) v) (hx : xs.length = n)
    (hn : r.idx.toNat + n < 65536) (hm : r.hostMem = s.hostMem) :
    Matched (writeBytes n (r.over v))
      ((pageAt s.hostMem (hostSize s) (s.buf + r.idx.toNat) n).flatMap sendByHand) v
      (fun r' w => ∃ i, Standing s { r with idx := i } true rest r' w) := by
  induction n generalizing v xs r with
  | zero =>
    obtain rfl := List.length_eq_zero_iff.1 hx
    exact ⟨r, v, rfl, fun _ => rfl, r.idx, rfl, h⟩
  | succ n ih =>
    obtain ⟨⟨d, x⟩, ys, rfl⟩ := List.exists_cons_of_length_eq_add_one hx
    have hsize : hostSize (r.over v) = hostSize s := congrArg (2 ^ ·) h.keeps.hostAw
    have hbyte : memRead (byteAddress (r.over v)) (r.over v) =
        Memory.read s.hostMem ((s.buf + r.idx.toNat) % hostSize s) := by
      rw [memRead, hostAddress, hsize, ← h.keeps.buf, ← hm]
      rfl
    have hnext : (r.idx + 1).toNat = r.idx.toNat + 1 :=
      BitVec.toNat_add_of_lt (show r.idx.toNat + 1 < 65536 by omega)
    rw [writeBytes, hbyte, pageAt, List.flatMap_cons]
    refine (matched_sendByte (d := d) (x := x) (rest := completions ys ++ rest) _ h r).andThen ?_
    rintro r w ⟨rfl, hw⟩
    have hrest := ih (r := { r with idx := r.idx + 1 }) hw (by simpa using hx)
      (by rw [hnext]; omega) hm
    rwa [hnext] at hrest

/-- WRITE_PAGE after launch: the translated address and its mark, and no byte of the buffer. -/
theorem matched_writePageBody {answers : List (Nat × Answer)} {r : Control} (hb : s.busy = false)
    (hl : answers.length = s.ps.toNat + 5) (h : s.env = completions answers ++ rest)
    (hm : r.hostMem = s.hostMem) :
    Matched (writePageBody (r.over s)) (writePageByHand s.pn s.ps (bufferPage s)) s
      (fun r' w => ∃ i, Standing s
        { r with seq := 4, idx := i, addr := pageAddress s.pn s.ps, held := true } false rest r' w) := by
  obtain ⟨xs, zs, rfl, hx, hz⟩ := exists_append_of_length (m := 4) (n := s.ps.toNat + 1)
    (hl.trans (by omega))
  obtain ⟨ys, zs, rfl, hy, hz⟩ := exists_append_of_length hz
  obtain ⟨⟨d, x⟩, rfl⟩ := List.length_eq_one_iff.1 hz
  rw [completions_append, completions_append, List.append_assoc, List.append_assoc] at h
  rw [writePageByHand, List.append_assoc]
  refine (matched_sendAddress hb hx h r).andThen ?_
  rintro _ u ⟨rfl, hu⟩
  have hps : ∀ r : Control, (r.over u).ps = s.ps := fun _ => hu.keeps.ps
  rw [hps]
  refine (matched_writeBytes (r := { r with
    seq := 3, idx := 0, addr := pageAddress s.pn s.ps, held := true }) hu hy ?_ hm).andThen ?_
  · rw [show (0 : Word).toNat = 0 from rfl, Nat.zero_add]
    exact s.ps.isLt
  · rintro _ v ⟨i, rfl, hv⟩
    exact (matched_stop hv { r with
      seq := 4, idx := i, addr := pageAddress s.pn s.ps, held := true }).mono fun _ _ h => ⟨i, h⟩

theorem Matched.abortRead {x : Run} {ins : List Input} {C : Control → State → Prop} {n : Nat}
    (h : Matched x ins v C) : Matched (Machine.abortRead n x) ins v C := by
  obtain ⟨r, w, rfl, h⟩ := h
  exact ⟨r, w, rfl, h⟩

/-- One byte of step 4 of READ_PAGE, and the bytes behind it: the store moves the buffer and `IDX` only. -/
theorem matched_readBytes_next {n : Nat} {ins : List Input} {C : Control → State → Prop} {r : Control}
    {k : AckFlag} {c : Byte} (h : AtHand s true (.reply (.complete d x) :: rest) v)
    (hd : d < s.retryBudget.toNat) (hk : ackByPosition (r.over v) = k) (hc : encode (.readByte k) = c)
    (hrest : ∀ m w, AtHand s true rest w →
      Matched (readBytes n ({ r with idx := r.idx + 1, hostMem := m }.over w)) ins w C) :
    Matched (readBytes (n + 1) (r.over v)) (cmd c :: ins) v C := by
  rw [readBytes, hk, ← hc]
  refine (matched_readByte k _ h hd r).abortRead.andThen (b := ins) ?_
  rintro r w ⟨rfl, hw⟩
  exact hrest _ w hw

/-- Step 4 of READ_PAGE, but for what it stores. -/
theorem matched_readBytes {n : Nat} {xs : List (Nat × Answer)} {r : Control}
    (h : AtHand s true (completions xs ++ rest) v) (hx : xs.length = n + 1)
    (hn : r.idx.toNat + (n + 1) = s.ps.toNat) (hd : inBudget s.retryBudget xs) :
    Matched (readBytes (n + 1) (r.over v)) (List.replicate n (cmd 0x15) ++ [cmd 0x05]) v
      (fun r' w => ∃ i m, Standing s { r with idx := i, hostMem := m } true rest r' w) := by
  have hps : (r.over v).ps = s.ps := h.keeps.ps
  induction n generalizing v xs r with
  | zero =>
    obtain ⟨x, rfl⟩ := List.length_eq_one_iff.1 hx
    have hk : ackByPosition (r.over v) = .term := ackByPosition_last (by rw [hps]; exact hn)
    exact matched_readBytes_next h (hd _ (List.mem_singleton_self x)) hk rfl fun m w hw =>
      ⟨_, w, rfl, fun _ => rfl, _, _, rfl, hw⟩
  | succ n ih =>
    obtain ⟨x, ys, rfl⟩ := List.exists_cons_of_length_eq_add_one hx
    have hk : ackByPosition (r.over v) = .cont :=
      ackByPosition_cont (by rw [hps]; show r.idx.toNat + 1 < _; omega)
    have hnext : (r.idx + 1).toNat = r.idx.toNat + 1 :=
      BitVec.toNat_add_of_lt (show r.idx.toNat + 1 < 65536 by have := s.ps.isLt; omega)
    rw [List.replicate_succ, List.cons_append]
    exact matched_readBytes_next h (hd _ (List.mem_cons_self ..)) hk rfl fun m w hw =>
      ih (r := { r with idx := r.idx + 1, hostMem := m }) hw (by simpa using hx)
        (by rw [hnext]; omega) (fun y hy => hd y (List.mem_cons_of_mem _ hy)) hw.keeps.ps

/-- READ_PAGE after launch, but for what it stores. -/
theorem matched_readPageBody {setup reads : List (Nat × Answer)} {last : Nat × Answer} {r : Control}
    (hb : s.busy = false) (hps : s.ps ≠ 0) (hsetup : setup.length = 7) (hreads : reads.length = s.ps.toNat)
    (hd : inBudget s.retryBudget reads)
    (h : s.env = completions setup ++ (completions reads ++ (completions [last] ++ rest))) :
    Matched (readPageBody (r.over s)) (readPageByHand s.pn s.ps) s
      (fun r' w => ∃ i m, Standing s
        { r with seq := 5, idx := i, addr := pageAddress s.pn s.ps, held := true, hostMem := m }
        false rest r' w) := by
  obtain ⟨xs, ys, rfl, hx, hy⟩ := exists_append_of_length (m := 4) (n := 3) hsetup
  obtain ⟨x1, x2, x3, rfl⟩ := List.length_eq_three.1 hy
  obtain ⟨n, hn⟩ : ∃ n, s.ps.toNat = n + 1 :=
    Nat.exists_eq_succ_of_ne_zero (BitVec.toNat_ne.1 hps)
  rw [completions_append, List.append_assoc] at h
  have hinputs : readPageByHand s.pn s.ps = addressByHand s.pn s.ps ++ ([cmd 0x03] ++ ([cmd 0x02] ++
      (sendByHand readIntent ++ ((List.replicate n (cmd 0x15) ++ [cmd 0x05]) ++ [cmd 0x03])))) := by
    simp [readPageByHand, hn]
  rw [hinputs]
  refine (matched_sendAddress hb hx h r).andThen ?_
  rintro _ t ⟨rfl, ht⟩
  refine (matched_stop ht _).andThen ?_
  rintro _ u ⟨rfl, hu⟩
  refine (matched_start hu { r with seq := 3, addr := pageAddress s.pn s.ps, held := true }).andThen ?_
  rintro _ v ⟨rfl, hv⟩
  refine (matched_sendByte _ hv _).andThen ?_
  rintro _ w ⟨rfl, hw⟩
  have hwps : ∀ r : Control, (r.over w).ps.toNat = n + 1 := fun _ =>
    (congrArg BitVec.toNat hw.keeps.ps).trans hn
  rw [hwps]
  refine (matched_readBytes (xs := reads) (rest := completions [last] ++ rest) (r := { r with
    seq := 4, idx := 0, addr := pageAddress s.pn s.ps, held := true }) hw (hreads.trans hn) ?_ hd).andThen ?_
  · rw [show (0 : Word).toNat = 0 from rfl, Nat.zero_add, hn]
  · rintro _ y ⟨i, m, rfl, hy⟩
    exact (matched_stop hy { r with
      seq := 5, idx := i, addr := pageAddress s.pn s.ps, held := true, hostMem := m }).mono
        fun _ _ h => ⟨i, m, h⟩

/-- The page command and the host's run, each from its start to its end. -/
theorem Matched.runs {i : Instr} {ins : List Input} {C : Control → State → Prop}
    (h : Matched (body i s ((Control.launched i s).over s)) ins s C) (hb : s.busy = false)
    (hm : missing i s = none) :
    ∃ r w, C r w ∧ exec i s = .next (finish (r.over w)) ∧
      Host.Core.run core ins.length { s with inputs := ins } = .next { w with inputs := [] } := by
  obtain ⟨r, w, hx, hw, hC⟩ := h
  have hrun := hw []
  rw [List.append_nil] at hrun
  refine ⟨r, w, hC, ?_, hrun⟩
  rw [exec_ready hb hm]
  exact congrArg Run.outcome hx

theorem addressByHand_length (p n : Word) : (addressByHand p n).length = 8 := rfl

theorem flatMap_sendByHand_length (bytes : List Byte) :
    (bytes.flatMap sendByHand).length = 2 * bytes.length := by
  simp [sendByHand, Nat.mul_comm]

theorem writePageByHand_length (s : State) :
    (writePageByHand s.pn s.ps (bufferPage s)).length = 2 * s.ps.toNat + 9 := by
  rw [writePageByHand, List.length_append, List.length_append, addressByHand_length,
    flatMap_sendByHand_length, bufferPage_length, List.length_singleton]
  omega

theorem readPageByHand_length {p n : Word} (hn : n ≠ 0) :
    (readPageByHand p n).length = n.toNat + 13 := by
  have hpos : n.toNat ≠ 0 := BitVec.toNat_ne.1 hn
  have hsend : (sendByHand readIntent).length = 2 := rfl
  simp only [readPageByHand, List.length_append, addressByHand_length, hsend, List.length_replicate,
    List.length_cons, List.length_nil]
  omega

end

/-- Settles O33: primitive by primitive the two runs agree but for what the sequencer keeps for itself. -/
theorem writePageIsItsExpansion : Obligations.WritePageIsItsExpansion := by
  unfold Obligations.WritePageIsItsExpansion
  intro s answers rest hready hinputs hl henv
  obtain ⟨hb, hm⟩ := hready
  obtain ⟨_, w, ⟨i, rfl, hw⟩, hpage, hhand⟩ := Matched.runs (i := .writePage)
    (matched_writePageBody (r := Control.launched .writePage s) hb hl henv rfl) hb hm
  rw [writePageByHand_length] at hhand
  refine ⟨_, _, hpage, hhand, ?_⟩
  rw [finish_over hw.keeps.idle]
  simp [Control.launched, hinputs, ← hw.keeps.hostMem]

/-- Settles O34: likewise; what the host's own run leaves out is the store behind each READ_BYTE. -/
theorem readPageIsItsExpansion : Obligations.ReadPageIsItsExpansion := by
  unfold Obligations.ReadPageIsItsExpansion
  intro s setup reads last rest hready hinputs hsetup hreads hd henv
  obtain ⟨hb, hm⟩ := hready
  obtain ⟨-, -, -, hps, -⟩ := needPage_none hm
  rw [List.append_assoc, List.append_assoc] at henv
  obtain ⟨_, w, ⟨i, m, rfl, hw⟩, hpage, hhand⟩ := Matched.runs (i := .readPage)
    (matched_readPageBody (r := Control.launched .readPage s) hb hps hsetup hreads hd henv) hb hm
  rw [readPageByHand_length hps] at hhand
  refine ⟨_, _, hpage, hhand, ?_⟩
  rw [finish_over hw.keeps.idle]
  simp [Control.launched, hinputs]

end Sys2Proof.Machine
end

section
/-! SUPPORT. The family of 40_bus_transport.md: the five primitives by hand, the poll loop, and a hang. -/

namespace Sys2Proof.Machine

open Sys2Proof.Safety

/-! ## What a primitive requires -/

theorem needInited_uninitialised {s : State} (hi : s.inited = false) :
    needInited s = some .notInitialised := by simp [needInited, hi]

theorem needFrame_uninitialised {s : State} (hi : s.inited = false) :
    needFrame s = some .notInitialised := by rw [needFrame, needInited_uninitialised hi, orElse]

theorem needInited_met {s : State} (hi : s.inited = true) : needInited s = none := if_pos hi

theorem needFrame_closed {s : State} (hi : s.inited = true) (hf : s.inframe = false) :
    needFrame s = some .noFrame := by simp [needFrame, needInited_met hi, orElse, hf]

theorem needFrame_met {s : State} (hi : s.inited = true) (hf : s.inframe = true) :
    needFrame s = none := by simp [needFrame, needInited_met hi, orElse, hf]

/-- What refuses a byte transfer refuses WRITE_BYTE before its own check of `DATA`. -/
theorem needData_of_needFrame {s : State} {r : Refusal} (h : needFrame s = some r) :
    needData s = some r := by rw [needData, h, orElse]

theorem needData_met {s : State} (hi : s.inited = true) (hf : s.inframe = true)
    (hd : s.written.data = true) : needData s = none := by
  simp [needData, needFrame_met hi hf, orElse, needValue, hd]

/-- Settles O21: the two checks come before anything else, in WRITE_BYTE before the check of `DATA`. -/
theorem primitivesOutOfOrderAreRefused : Obligations.PrimitivesOutOfOrderAreRefused := by
  unfold Obligations.PrimitivesOutOfOrderAreRefused
  refine fun s k hb => ⟨fun hi => ?_, fun hi hf => ?_⟩
  · have h := needFrame_uninitialised hi
    exact ⟨exec_missing hb (needInited_uninitialised hi), exec_missing hb h,
      exec_missing hb (needData_of_needFrame h), exec_missing hb h⟩
  · have h := needFrame_closed hi hf
    exact ⟨exec_missing hb h, exec_missing hb (needData_of_needFrame h), exec_missing hb h⟩

/-! ## INIT -/

/-- INIT as one record, from every idle state. -/
theorem exec_init {s : State} (hb : s.busy = false) : exec .init s = .next { s with
    cfgTiming := Config.timingValue, inited := true, result := .success, op := none, seq := 0 } := by
  rw [exec_ready hb rfl]
  simp [body, initialise, Run.outcome, configure, launch, finish, hb]

/-- Settles O16: the state that INIT leaves is one that it does not change. -/
theorem initTwiceIsInitOnce : Obligations.InitTwiceIsInitOnce := by
  unfold Obligations.InitTwiceIsInitOnce
  intro s t hb h
  rw [exec_init hb] at h
  cases h
  exact exec_init hb

/-- Settles O15: INIT is one record; the primitives other than INIT ask for `INITED` first. -/
theorem initConfiguresTheTiming : Obligations.InitConfiguresTheTiming := by
  unfold Obligations.InitConfiguresTheTiming
  exact ⟨decode_encode .init, fun _ => exec_init, initTwiceIsInitOnce, ⟨_, exec_init rfl, rfl⟩,
    fun s k hb => (primitivesOutOfOrderAreRefused s k hb).1⟩

/-! ## START, STOP, WRITE_BYTE -/

/-- The completed event depends on the device alone. -/
theorem eventOf_congr (e : Outbound) (x : Answer) {s t : State} (h : t.dev = s.dev) :
    eventOf e x t = eventOf e x s := by
  cases e with
  | start => rfl
  | stop => rfl
  | byte b => cases x <;> simp [eventOf, answerTo, devAck, h]

/-- An outbound primitive by hand whose handshake completes, as one record. -/
theorem transmit_outcome_complete {i : Instr} {e : Outbound} {s : State} {d : Nat} {x : Answer}
    {rest : List Happening} (hb : s.busy = false) (h : s.env = .reply (.complete d x) :: rest) :
    (transmit e (launch i s)).outcome = .next { s with
      done := true, inframe := frameFlag e s.inframe, result := .success, op := none, seq := 0
      late := false, trace := s.trace ++ [eventOf e x s], env := rest, dev := s.dev.answers x e } := by
  have hevent : eventOf e x { clearDone (launch i s) with env := rest } = eventOf e x s :=
    eventOf_congr e x rfl
  rw [transmit_complete (s := launch i s) h, Run.outcome, deliver, hevent, reachIf_eq, reachIf_dev]
  cases e <;> simp [markComplete, emit, setDev, clearDone, launch, finish, Device.answers, frameFlag, hb]

/-- An outbound primitive by hand whose handshake never completes, as one record. -/
theorem transmit_outcome_never {i : Instr} {e : Outbound} {s : State} {reached : Bool}
    {rest : List Happening} (h : s.env = .reply (.never reached) :: rest) :
    (transmit e (launch i s)).outcome = .next { s with
      done := false, late := false, busy := true, op := some (opcodeOf i)
      trace := s.trace ++ [hungEventOf e], env := rest, dev := (reachIf reached e s).dev } := by
  rw [transmit_never (s := launch i s) h, Run.outcome, reachIf_eq, reachIf_dev, reachIf_dev]
  rfl

/-- What the device that answers makes of an event, while it is powered. -/
theorem Device.answers_start (x : Answer) (d : Device) : d.answers x .start =
    if x = .device ∧ d.powered = true then { d with ph := .sla } else d := (ite_and ..).symm

theorem Device.answers_stop (x : Answer) (d : Device) : d.answers x .stop =
    if x = .device ∧ d.powered = true then { d with ph := .idle } else d := (ite_and ..).symm

theorem Device.answers_byte (x : Answer) (b : Byte) (d : Device) : d.answers x (.byte b) =
    if x = .device ∧ d.powered = true then (d.take b).1 else d := (ite_and ..).symm

/-- Settles O17: START asks for `INITED` alone, and its handshake completes or hangs. -/
theorem startFollowsItsRule : Obligations.StartFollowsItsRule := by
  unfold Obligations.StartFollowsItsRule
  refine ⟨decode_encode .start, fun s hb => ⟨fun hi => ?_, fun d x rest hi h => ?_,
    fun reached rest hi h => ?_⟩⟩
  · exact exec_missing hb (needInited_uninitialised hi)
  · rw [exec_ready (i := .start) hb (needInited_met hi), body, transmit_outcome_complete hb h, Device.answers_start]
    rfl
  · rw [exec_ready (i := .start) hb (needInited_met hi), body, transmit_outcome_never h]
    rfl

/-- Settles O18: STOP asks for an open frame, and its handshake completes or hangs. -/
theorem stopFollowsItsRule : Obligations.StopFollowsItsRule := by
  unfold Obligations.StopFollowsItsRule
  refine ⟨decode_encode .stop, fun s hb => ⟨fun hi => ?_, fun hi hf => ?_, fun d x rest hi hf h => ?_,
    fun reached rest hi hf h => ?_⟩⟩
  · exact exec_missing hb (needFrame_uninitialised hi)
  · exact exec_missing hb (needFrame_closed hi hf)
  · rw [exec_ready (i := .stop) hb (needFrame_met hi hf), body, transmit_outcome_complete hb h, Device.answers_stop]
    rfl
  · rw [exec_ready (i := .stop) hb (needFrame_met hi hf), body, transmit_outcome_never h]
    rfl

/-- Writing to `DATA` the value that it holds changes nothing. -/
theorem setData_self {s : State} (h : s.written.data = true) : setData s.data s = s := by
  have hw : { s.written with data := true } = s.written := by rw [← h]
  rw [setData, hw]

/-- WRITE_BYTE by hand sends `DATA` as it is. -/
theorem sendByte_data {s : State} (i : Instr) (h : s.written.data = true) :
    sendByte s.data (launch i s) = transmit (.byte s.data) (launch i s) :=
  congrArg (transmit (.byte s.data)) (setData_self (s := launch i s) h)

/-- Settles O19: WRITE_BYTE asks for an open frame and for `DATA`, and its handshake completes or hangs. -/
theorem writeByteFollowsItsRule : Obligations.WriteByteFollowsItsRule := by
  unfold Obligations.WriteByteFollowsItsRule
  refine ⟨decode_encode .writeByte, fun s hb => ⟨fun hi => ?_, fun hi hf => ?_,
    fun d x rest hi hf hd h => ?_, fun reached rest hi hf hd h => ?_⟩⟩
  · exact exec_missing hb (needData_of_needFrame (needFrame_uninitialised hi))
  · exact exec_missing hb (needData_of_needFrame (needFrame_closed hi hf))
  · rw [exec_ready (i := .writeByte) hb (needData_met hi hf hd), body, sendByte_data _ hd,
      transmit_outcome_complete hb h, Device.answers_byte]
    rfl
  · rw [exec_ready (i := .writeByte) hb (needData_met hi hf hd), body, sendByte_data _ hd, transmit_outcome_never h]
    rfl

/-! ## READ_BYTE -/

theorem ackOf_eq (k : AckFlag) : ackOf k = if k = .cont then .ack else .nak := by cases k <;> rfl

/-- What an inbound transfer delivers, and the device's part in it, depend on no register of the block. -/
theorem inboundByte_launch (x : Answer) (i : Instr) (s : State) :
    inboundByte x (launch i s) = inboundByte x s := by cases x <;> rfl

theorem inbound_launch (x : Answer) (i : Instr) (s : State) :
    inbound x (launch i s) = launch i (inbound x s) := by
  cases x with
  | device =>
    rw [inbound, inbound, devRead_eq, devRead_eq s, devRead_dev, devRead_draws, devRead_dev, devRead_draws]
    rfl
  | other b a => rfl

/-- READ_BYTE by hand whose transfer completes within the budget, as one record. -/
theorem receive_outcome_complete {k : AckFlag} {s : State} {d : Nat} {x : Answer}
    {rest : List Happening} (hb : s.busy = false) (h : s.env = .reply (.complete d x) :: rest)
    (hd : d < s.retryBudget.toNat) :
    (receive k none (launch (.readByte k) s)).outcome = .next { s with
      data := inboundByte x s, written := { s.written with data := true }
      ackf := k, cnt := BitVec.ofNat 32 d
      done := true, result := .success, op := none, seq := 0, late := false
      trace := s.trace ++ [.r (inboundByte x s) (ackOf k)], env := rest
      dev := (inbound x s).dev, draws := (inbound x s).draws } := by
  obtain ⟨t, e, rfl⟩ := receive_done (k := k) (i := none) (s := launch (.readByte k) s) h hd
  rw [paced_reply (s := launch (.readByte k) s) h] at e
  rw [e, Run.outcome, inboundByte_launch, inbound_launch]
  simp [finish, launch, hb]

/-- READ_BYTE by hand whose transfer does not complete within the budget, as one record. -/
theorem receive_outcome_timeout {k : AckFlag} {s : State} {r : Reply} {rest : List Happening}
    (hb : s.busy = false) (h : s.env = .reply r :: rest) (hr : timesOut s.retryBudget r) :
    ∃ t, (receive k none (launch (.readByte k) s)).outcome = .next t ∧ t = { s with
      data := t.data, written := { s.written with data := true }
      ackf := k, cnt := s.retryBudget, done := false, result := .failure, op := none, seq := 0
      late := t.late, trace := s.trace ++ [.rf (ackOf k)]
      raised := s.raised ++ [.busTimeout none], env := rest, dev := t.dev, draws := t.draws } := by
  have hslow : ∀ d x, r = .complete d x → s.retryBudget.toNat ≤ d := by rintro d x rfl; exact hr
  have hreset : ∀ b, r ≠ .reset b := by rintro b rfl; exact hr
  obtain ⟨l, d, n, -, e⟩ :=
    receive_timeout (k := k) (i := none) (s := launch (.readByte k) s) h hslow hreset
  refine ⟨_, by rw [e, Run.outcome], ?_⟩
  simp [finish, takeBusTimeout, drawn, setData, emit, requested, clearDone, launch, hb]

/-- READ_BYTE never hangs: it delivers, times out, or is reset. -/
theorem exec_readByte_idle {k : AckFlag} {s t : State} (hb : s.busy = false)
    (h : exec (.readByte k) s = .next t) : t.busy = false := by
  have hends : (receive k none (launch (.readByte k) s)).Ends (fun _ => True) (fun _ => True)
      (fun _ => False) (·.busy = false) :=
    receive_ends (fun _ _ _ _ _ => trivial) (fun _ _ _ _ _ _ => trivial) (fun _ _ _ => rfl)
  rcases hends.outcome (exec_next hb h).2 with ⟨u, -, rfl⟩ | ⟨u, -, rfl⟩ | hfalse | hreset
  · rfl
  · rfl
  · exact hfalse.elim
  · exact hreset

/-- Settles O20: READ_BYTE asks for an open frame, and then delivers its byte in time or times out. -/
theorem readByteFollowsItsRule : Obligations.ReadByteFollowsItsRule := by
  unfold Obligations.ReadByteFollowsItsRule
  refine ⟨decode_encode (.readByte .term), decode_encode (.readByte .cont), fun s k hb =>
    ⟨fun hi => ?_, fun hi hf => ?_, fun d x rest hi hf h hd => ?_, fun r rest hi hf h hr => ?_,
      fun _ => exec_readByte_idle hb⟩⟩
  · exact exec_missing hb (needFrame_uninitialised hi)
  · exact exec_missing hb (needFrame_closed hi hf)
  · rw [exec_ready (i := .readByte k) hb (needFrame_met hi hf), body, receive_outcome_complete hb h hd, ackOf_eq]
  · rw [exec_ready (i := .readByte k) hb (needFrame_met hi hf), body, ← ackOf_eq]
    exact receive_outcome_timeout hb h hr

/-! ## The poll loop -/

/-- The loop on a transfer that never completes makes all its tests. -/
theorem pollLoop_none (left cnt : Nat) : pollLoop none left cnt = (cnt + left, false) := by
  induction left generalizing cnt with
  | zero => rfl
  | succ left ih =>
    rw [pollLoop, ready, if_neg Bool.false_ne_true, ih, Nat.add_assoc, Nat.add_comm 1]

/-- The loop stops at the `d`-th test if it gets there, and else makes all its tests. -/
theorem pollLoop_some {d cnt : Nat} (left : Nat) (h : cnt ≤ d) : pollLoop (some d) left cnt =
    if d < cnt + left then (d, true) else (cnt + left, false) := by
  induction left generalizing cnt with
  | zero => rw [pollLoop, if_neg (by omega), Nat.add_zero]
  | succ left ih =>
    rw [pollLoop, ready]
    rcases h.eq_or_lt with rfl | hlt
    · rw [if_pos (decide_eq_true le_rfl), if_pos (by omega)]
    · rw [if_neg (by simpa using hlt), ih hlt, Nat.succ_add_eq_add_succ]

/-- Settles O22: by induction on the tests to go, from any count at which `d` is still to come. -/
theorem pollLoopMeetsItsCounts : Obligations.PollLoopMeetsItsCounts := by
  unfold Obligations.PollLoopMeetsItsCounts
  intro budget d
  cases d with
  | none => rw [pollLoop_none, Nat.zero_add, poll_none]
  | some d => rw [pollLoop_some _ (Nat.zero_le d), Nat.zero_add, poll_some]

/-! ## A hang -/

/-- Where no earlier transfer is outstanding, a late completion is none. -/
theorem completeLate_of_not_late {s : State} (h : s.late = false) : completeLate s = s := by
  rw [completeLate, if_neg (by simp [h])]

/-- Settles O48: a busy block launches nothing, and no earlier transfer of it is left to complete. -/
theorem hangIsForEver : Obligations.HangIsForEver := by
  unfold Obligations.HangIsForEver
  intro s t hinv hb h
  obtain ⟨-, -, hlate⟩ := hinv.2 hb
  rcases step_cases h with ⟨-, rfl⟩ | ⟨x, rest, u, hx, rfl, hcase⟩
  · exact .inr rfl
  rcases hcase with ⟨-, ht⟩ | ⟨hidle, -⟩ | ⟨hidle, -⟩ | ⟨-, a, b, rfl⟩ | ⟨rfl, -⟩ | ⟨on, rfl⟩ | ht
  · right
    rw [ht]
  · exact absurd (hb.symm.trans hidle) (by decide)
  · exact absurd (hb.symm.trans hidle) (by decide)
  · exact .inr rfl
  · exact .inl ⟨rest, hx⟩
  · cases on <;> exact .inr rfl
  · rw [completeLate_of_not_late (by exact hlate)] at ht
    exact .inr (by rw [ht])

end Sys2Proof.Machine
end

section
/-! SUPPORT. The family of 40_bus_transport.md: two runs of a page command on buses that answer
differently. -/

namespace Sys2Proof.Machine

open Sys2Proof.Safety

/-! ## Two runs with different answers -/

/-- The state with another history, another device and another schedule. The first two are all that an
acknowledgment can reach. -/
def onWires (trace : List Event) (d : Device) (env : List Happening) (s : State) : State :=
  { s with trace := trace, dev := d, env := env }

/-- WRITE_PAGE on a bus that completes its handshakes: one run, but for the answers in the history and for
the device. -/
theorem exec_writePage_onWires {s : State} (rest : List Happening) (hready : pageReady s) :
    ∃ w, ∀ xs : List (Nat × Answer), xs.length = s.ps.toNat + 5 → ∃ events dev,
      sentAs (writePageSends s) events ∧ exec .writePage { s with env := completions xs ++ rest } =
        .next (onWires (s.trace ++ events) dev rest w) := by
  obtain ⟨hb, hm⟩ := hready
  refine ⟨{ s with
      data := (bufferPage s).getLastD (lowByte (pageAddress s.pn s.ps))
      addr := pageAddress s.pn s.ps, written := { s.written with data := true, addr := true }
      op := none, seq := 0, idx := s.ps, done := true, result := .success, inframe := false
      inited := true, cfgTiming := Config.timingValue, late := false, busy := false }, fun xs hxs => ?_⟩
  obtain ⟨t, events, e, c, rfl⟩ :=
    writePageBody_done (s := launch .writePage { s with env := completions xs ++ rest }) hxs rfl
  refine ⟨events, s.dev.follows xs (writePageSends s), c, ?_⟩
  refine (exec_ready (i := .writePage) (s := { s with env := completions xs ++ rest }) hb hm).trans ?_
  rw [body, e, Run.outcome]
  rfl

/-- One byte of READ_PAGE that something else than the reference device delivers: it is stored, and the loop
goes on, whatever the history and the device. -/
theorem readBytes_other_next {n d : Nat} {s : State} {b : Byte} {a : Ack}
    (hd : d < s.retryBudget.toNat) :
    ∃ t, t.ps = s.ps ∧ t.idx = s.idx + 1 ∧ t.retryBudget = s.retryBudget ∧
      ∀ trace dev rest,
        readBytes (n + 1) (onWires trace dev (.reply (.complete d (.other b a)) :: rest) s) =
          readBytes n (onWires (trace ++ [.r b (ackOf (ackByPosition s))]) dev rest t) := by
  refine ⟨setIdx (s.idx + 1) (memWrite (byteAddress s) b { s with
    data := b, written := { s.written with data := true }, ackf := ackByPosition s
    cnt := BitVec.ofNat 32 d, done := true, result := .success, late := false }),
    rfl, rfl, rfl, fun trace dev rest => ?_⟩
  obtain ⟨t, e, rfl⟩ := receive_done (k := ackByPosition s) (i := some s.idx)
    (s := onWires trace dev (.reply (.complete d (.other b a)) :: rest) s) rfl hd
  rw [readBytes]
  change (abortRead (n + 1) (paced (receive (ackByPosition s) (some s.idx)) _)).andThen _ = _
  rw [e]
  rfl

/-- Step 4 of READ_PAGE where something else than the reference device delivers the bytes: one run, but for
the history it starts from and the device, which it leaves alone. -/
theorem readBytes_other {n : Nat} {s : State} {xs : List (Nat × Answer)} (hn : xs.length = n)
    (hp : s.idx.toNat + n = s.ps.toNat) (hb : inBudget s.retryBudget xs)
    (hx : ∀ x ∈ xs, x.2 ≠ .device) :
    ∃ t bytes, bytes.length = n ∧ givenBytes xs bytes ∧ ∀ trace dev rest,
      readBytes n (onWires trace dev (completions xs ++ rest) s) =
        .ended (onWires (trace ++ readEvents bytes) dev rest t) := by
  induction n generalizing s xs with
  | zero =>
    obtain rfl := List.length_eq_zero_iff.1 hn
    exact ⟨s, [], rfl, by simp [givenBytes], fun _ _ _ => by simp [readBytes, readEvents, completions]⟩
  | succ n ih =>
    obtain ⟨⟨d, x⟩, ys, rfl⟩ := List.exists_cons_of_length_eq_add_one hn
    obtain ⟨hd, hys⟩ := List.forall_mem_cons.1 hb
    obtain ⟨hdx, hxs⟩ := List.forall_mem_cons.1 hx
    cases x with
    | device => exact absurd rfl hdx
    | other b a =>
    obtain ⟨t, hps, hidx, hbudget, hstep⟩ := readBytes_other_next (n := n) (b := b) (a := a) hd
    have hnext : t.idx.toNat = s.idx.toNat + 1 := by
      have := s.ps.isLt
      rw [hidx, BitVec.toNat_add]
      simp
      omega
    obtain ⟨u, bytes, hlength, hgiven, hrun⟩ := ih (s := t) (by simpa using hn)
      (by rw [hnext, hps]; omega) (hbudget ▸ hys) hxs
    have hevents : readEvents (b :: bytes) = .r b (ackOf (ackByPosition s)) :: readEvents bytes := by
      cases bytes with
      | nil =>
        rw [ackByPosition_last (by simp at hlength; omega)]
        rfl
      | cons c cs =>
        rw [ackByPosition_cont (by simp at hlength; omega)]
        rfl
    refine ⟨u, b :: bytes, by simp [hlength], fun i d' b' a' hi => ?_, fun trace dev rest => ?_⟩
    · cases i with
      | zero =>
        simp at hi
        simp [hi]
      | succ i => exact hgiven i d' b' a' hi
    · refine (hstep trace dev (completions ys ++ rest)).trans ?_
      rw [hrun, hevents, List.append_assoc, List.singleton_append]

/-- READ_PAGE before its first inbound byte, but for the history, the device and the schedule. -/
def readingPage (s : State) : State :=
  { launch .readPage s with
    data := readIntent, addr := pageAddress s.pn s.ps
    written := { s.written with data := true, addr := true }, seq := 4, idx := 0, done := true
    result := .success, inframe := true, inited := true, cfgTiming := Config.timingValue, late := false }

/-- The last STOP of READ_PAGE, and its end. -/
theorem stop_outcome_onWires {s : State} {trace : List Event} {dev : Device} {rest : List Happening}
    (x : Nat × Answer) :
    (paced (transmit .stop) (setSeq 5 (onWires trace dev (completions [x] ++ rest) s))).outcome =
      .next (onWires (trace ++ [.p]) (dev.answers x.2 .stop) rest
        (finish { s with done := true, late := false, result := .success, inframe := false })) := by
  obtain ⟨v, t, rfl, e, rfl⟩ := transmit_done (e := .stop)
    (s := setSeq 5 (onWires trace dev (completions [x] ++ rest) s)) rfl
  rw [e, Run.outcome]
  rfl

/-- READ_PAGE up to its first inbound byte, on a bus that completes the seven handshakes before it. -/
theorem exec_readPage_begins {s : State} {setup : List (Nat × Answer)} (behind : List Happening)
    (hready : pageReady s) (hsetup : setup.length = 7) : ∃ events dev,
      sentAs (readPageSends s) events ∧ exec .readPage { s with env := completions setup ++ behind } =
        ((readBytes s.ps.toNat (onWires (s.trace ++ events) dev behind (readingPage s))).andThen
          fun x => paced (transmit .stop) (setSeq 5 x)).outcome := by
  obtain ⟨hb, hm⟩ := hready
  obtain ⟨t, events, e, c, rfl⟩ :=
    readPageBody_begins (s := launch .readPage { s with env := completions setup ++ behind }) hsetup rfl
  refine ⟨events, s.dev.follows setup (readPageSends s), c, ?_⟩
  refine (exec_ready (i := .readPage) (s := { s with env := completions setup ++ behind }) hb hm).trans ?_
  rw [body, e]
  rfl

/-- READ_PAGE on a bus that completes its handshakes, where something else than the reference device delivers
the bytes: one run, but for the answers in the history and for the device. -/
theorem exec_readPage_onWires {s : State} {reads : List (Nat × Answer)} (rest : List Happening)
    (hready : pageReady s) (hn : reads.length = s.ps.toNat) (hb : inBudget s.retryBudget reads)
    (hreads : ∀ z ∈ reads, z.2 ≠ .device) :
    ∃ w bytes, bytes.length = s.ps.toNat ∧ givenBytes reads bytes ∧
      ∀ (setup : List (Nat × Answer)) (x : Nat × Answer), setup.length = 7 → ∃ events dev,
        sentAs (readPageSends s) events ∧
        exec .readPage { s with
          env := completions setup ++ completions reads ++ completions [x] ++ rest } =
          .next (onWires (s.trace ++ events ++ readEvents bytes ++ [.p]) dev rest w) := by
  obtain ⟨u, bytes, hlength, hgiven, hrun⟩ :=
    readBytes_other (s := readingPage s) hn (Nat.zero_add _) hb hreads
  refine ⟨finish { u with done := true, late := false, result := .success, inframe := false }, bytes,
    hlength, hgiven, fun setup x hsetup => ?_⟩
  obtain ⟨events, dev, c, e⟩ :=
    exec_readPage_begins (completions reads ++ (completions [x] ++ rest)) hready hsetup
  refine ⟨events, dev.answers x.2 .stop, c, ?_⟩
  rw [List.append_assoc, List.append_assoc, e, hrun, Run.ended_andThen, stop_outcome_onWires]

/-- Settles O50: the answers stand in the history and reach the device, at which nothing of the block
looks. -/
theorem acknowledgmentsDoNotReachTheBlock : Obligations.AcknowledgmentsDoNotReachTheBlock := by
  unfold Obligations.AcknowledgmentsDoNotReachTheBlock
  refine ⟨fun s xs ys rest hready hxs hys => ?_,
    fun s xs ys reads x y rest hready hxs hys hn hb hreads => ?_⟩
  · obtain ⟨w, hw⟩ := exec_writePage_onWires rest hready
    obtain ⟨events, dev, hsent, ht⟩ := hw xs hxs
    obtain ⟨events', dev', hsent', hu⟩ := hw ys hys
    exact ⟨_, _, events, events', ht, hu, hsent, hsent', rfl, rfl⟩
  · obtain ⟨w, bytes, hlength, hgiven, hw⟩ := exec_readPage_onWires rest hready hn hb hreads
    obtain ⟨events, dev, hsent, ht⟩ := hw xs x hxs
    obtain ⟨events', dev', hsent', hu⟩ := hw ys y hys
    exact ⟨_, _, events, events', bytes, ht, hu, hsent, hsent', hlength, hgiven, rfl, rfl⟩

end Sys2Proof.Machine
end

section
/-! SUPPORT. The family of 41_page_client.md: the operands of the page commands, which every command leaves
alone, and the page-address translator. -/

namespace Sys2Proof.Machine

open Sys2Proof.Safety

/-! ## Translation -/

theorem highByte_toNat (a : Word) : (highByte a).toNat = a.toNat / 256 := by
  have := a.isLt
  simp only [highByte, BitVec.extractLsb'_toNat, Nat.shiftRight_eq_div_pow]
  omega

theorem lowByte_toNat (a : Word) : (lowByte a).toNat = a.toNat % 256 :=
  BitVec.extractLsb'_toNat ..

/-- Settles O23: both bytes lie within the 16 bits that truncation keeps of the product. -/
theorem translatorTruncatesTheProduct : Obligations.TranslatorTruncatesTheProduct := by
  unfold Obligations.TranslatorTruncatesTheProduct
  intro s
  have haddr : (translate s).addr.toNat = s.pn.toNat * s.ps.toNat % 65536 := pageAddress_toNat ..
  refine ⟨haddr, ?_, ?_, rfl⟩
  · rw [highByte_toNat, haddr]
    omega
  · rw [lowByte_toNat, haddr]
    omega

/-! ## What a page command requires -/

theorem needPage_zero {s : State} (hpn : s.written.pn = true) (hps : s.written.ps = true)
    (hbuf : s.written.buf = true) (hz : s.ps = 0) : needPage s = some .zeroPageSize := by
  simp [needPage, needValue, orElse, hpn, hps, hbuf, hz]

theorem needPage_overlap {s : State} (hpn : s.written.pn = true) (hps : s.written.ps = true)
    (hbuf : s.written.buf = true) (hz : s.ps ≠ 0) (ho : bufferOverlaps s = true) :
    needPage s = some .bufferOverlapsRegisters := by
  rw [needPage, if_neg hz]
  simp [needValue, orElse, hpn, hps, hbuf, ho]

/-- Settles O26: with the operands written, the page size is checked first and the buffer next. -/
theorem pagePreconditionsAreRefused : Obligations.PagePreconditionsAreRefused := by
  unfold Obligations.PagePreconditionsAreRefused
  intro s hb hpn hps hbuf
  have refused : ∀ r, needPage s = some r →
      exec .readPage s = .refused r ∧ exec .writePage s = .refused r :=
    fun r hr => ⟨exec_missing hb hr, exec_missing hb hr⟩
  exact ⟨fun hz => refused _ (needPage_zero hpn hps hbuf hz),
    fun hz ho => refused _ (needPage_overlap hpn hps hbuf hz ho)⟩

/-! ## The operands -/

/-- The operands of the page commands (10_state.md rule R30). -/
def operands (s : State) : Word × Word × Nat := (s.pn, s.ps, s.buf)

theorem operands_eq_iff (s t : State) :
    operands t = operands s ↔ t.pn = s.pn ∧ t.ps = s.ps ∧ t.buf = s.buf := by
  simp only [operands, Prod.mk.injEq]

/-- Every operation of a command keeps the operands, until a reset puts the block at its reset values. -/
theorem operands_kept (s : State) : Kept (operands · = operands s) atResetValues where
  configure _ h := h
  finish _ h := h
  translate _ h := h
  memWrite _ _ _ h := h
  drawn _ h := h
  setData _ _ h := h
  setSeq _ _ h := h
  setIdx _ _ h := h
  gap u v h hg := by
    rw [hg.eq]
    exact h
  resetGap _ _ _ _ := takeReset_atResetValues _
  complete e x u v h hw := by
    rw [hw.eq]
    simpa [operands] using h
  hang e r u v h hw := by
    rw [hw.eq]
    simpa [operands] using h
  accept k x d u v h hw _ := by
    rw [hw.eq]
    simpa [operands] using h
  timeout k i u v l d n h hw _ := by
    rw [hw.eq]
    exact h
  resetOut _ _ _ _ _ _ := takeReset_atResetValues _
  resetIn _ _ _ _ _ _ := takeReset_atResetValues _

/-- Settles O46: a busy block drops the command, and an idle one runs it through operations that keep the
operands. -/
theorem commandsKeepTheOperands : Obligations.CommandsKeepTheOperands := by
  unfold Obligations.CommandsKeepTheOperands
  intro i s t h
  rw [← operands_eq_iff]
  cases hb : s.busy with
  | true => exact .inl (congrArg operands (exec_busy hb h))
  | false => exact exec_keeps (operands_kept s) hb rfl h

end Sys2Proof.Machine
end

section
/-! SUPPORT. The family of 41_page_client.md: WRITE_PAGE on a bus that completes its handshakes, and both
page commands where one of their outbound handshakes never completes. -/

namespace Sys2Proof.Machine

open Sys2Proof.Safety

/-- A command runs from its launch to a hang, of which its step makes a next state. -/
theorem exec_hung {i : Instr} {s t : State} (hb : s.busy = false) (hm : missing i s = none)
    (h : body i s (launch i s) = .hung t) : exec i s = .next t := by
  rw [exec_ready hb hm, h, Run.outcome]

/-- A command runs from its launch to its end. -/
theorem exec_ended {i : Instr} {s t : State} (hb : s.busy = false) (hm : missing i s = none)
    (h : body i s (launch i s) = .ended t) : exec i s = .next (finish t) := by
  rw [exec_ready hb hm, h, Run.outcome]

/-- In a list that is not empty the last element is not the default. -/
theorem getLastD_of_ne_nil {α : Type} {l : List α} (h : l ≠ []) (a b : α) :
    l.getLastD a = l.getLastD b := by
  rw [List.getLastD_eq_getLast?, List.getLastD_eq_getLast?, List.getLast?_eq_some_getLast h]
  rfl

/-! ## WRITE_PAGE on a completing bus -/

/-- Settles O30: the run of `writePageBody_done`, whose last byte is one of the buffer's, as `PS` is not 0. -/
theorem writePageCompletes : Obligations.WritePageCompletes := by
  unfold Obligations.WritePageCompletes
  intro s answers rest ⟨hb, hm⟩ hl h
  obtain ⟨t, events, e, c, q⟩ := writePageBody_done (s := launch .writePage s) hl h
  obtain ⟨-, -, -, hps, -⟩ := needPage_none hm
  have hpage : bufferPage s ≠ [] := fun hnil =>
    hps (BitVec.eq_of_toNat_eq (by rw [← bufferPage_length, hnil]; rfl))
  have hdata : t.data = (bufferPage s).getLastD 0 := by
    rw [q]
    exact getLastD_of_ne_nil hpage _ _
  refine ⟨finish t, events, exec_ended (i := .writePage) hb hm e, c, ?_⟩
  rw [← hdata, q]
  simp [finish, launch, hb]

/-! ## Hangs -/

/-- A run of a page command sends the first `k` of these events and hangs in the next one. -/
def HangsAt (x : Run) (sends : List Outbound) (k : Nat) (seq : BitVec 3) (idx : Word) (isOpen : Bool)
    (rest : List Happening) (s : State) : Prop :=
  ∃ t events e, x = .hung t ∧ sentAs (sends.take k) events ∧ (sends[k]?).map hungEventOf = some e ∧
    t = { s with
      data := t.data, addr := pageAddress s.pn s.ps
      written := { s.written with data := s.written.data || decide (0 < k), addr := true }
      seq := seq, idx := idx, done := false, result := .success, inframe := isOpen, inited := true
      cfgTiming := Config.timingValue, late := false, trace := s.trace ++ events ++ [e], env := rest
      dev := t.dev }

/-- A hang after some completed events, in the one behind them. -/
theorem HangsAt.intro {x : Run} {pre more sends : List Outbound} {e : Outbound} {k : Nat}
    {events : List Event} {seq : BitVec 3} {idx : Word} {isOpen : Bool} {rest : List Happening}
    {s t : State} (hsends : sends = pre ++ e :: more) (hk : pre.length = k) (hx : x = .hung t)
    (hsent : sentAs pre events) (ht : t = { s with
      data := t.data, addr := pageAddress s.pn s.ps
      written := { s.written with data := s.written.data || decide (0 < k), addr := true }
      seq := seq, idx := idx, done := false, result := .success, inframe := isOpen, inited := true
      cfgTiming := Config.timingValue, late := false, trace := s.trace ++ events ++ [hungEventOf e]
      env := rest, dev := t.dev }) :
    HangsAt x sends k seq idx isOpen rest s := by
  subst hsends hk
  refine ⟨t, events, hungEventOf e, hx, ?_, ?_, ht⟩
  · rwa [List.take_left]
  · simp

theorem sentAs_append {xs ys : List Outbound} {es fs : List Event} (hx : sentAs xs es)
    (hy : sentAs ys fs) : sentAs (xs ++ ys) (es ++ fs) := List.rel_append hx hy

/-- A page command hangs in the START of its first frame, or in a byte of the address. -/
theorem sendAddress_hangsAt {s : State} {xs : List (Nat × Answer)} {r : Bool} {rest : List Happening}
    (f : State → Run) (more : List Outbound) (hx : xs.length < 4)
    (h : s.env = completions xs ++ .reply (.never r) :: rest) :
    HangsAt ((sendAddress s).andThen f) ((.start :: (addressBytes s.pn s.ps).map .byte) ++ more)
      xs.length 2 s.idx (s.inframe || decide (0 < xs.length)) rest s := by
  obtain ⟨t, events, e, hrun, hsent, hnext, ht⟩ := sendAddress_hangs hx h
  have hlength : (.start :: (addressBytes s.pn s.ps).map Outbound.byte).length = 4 := rfl
  refine ⟨t, events, e, by rw [hrun, Run.hung_andThen], ?_, ?_, ht⟩
  · rwa [List.take_append_of_le_length (by omega)]
  · rwa [List.getElem?_append_left (by omega)]

/-- WRITE_PAGE up to its first byte of the page on a bus that completes the four handshakes before it. -/
theorem writePageBody_begins {s : State} {xs : List (Nat × Answer)} {rest : List Happening}
    (hx : xs.length = 4) (h : s.env = completions xs ++ rest) :
    ∃ t events, writePageBody s =
        ((writeBytes s.ps.toNat t).andThen fun u => paced (transmit .stop) (setSeq 4 u)) ∧
      sentAs (.start :: (addressBytes s.pn s.ps).map .byte) events ∧
      pageAt t.hostMem (hostSize t) (byteAddress t) s.ps.toNat = bufferPage s ∧ t = { s with
        data := lowByte (pageAddress s.pn s.ps), addr := pageAddress s.pn s.ps
        written := { s.written with data := true, addr := true }, seq := 3, idx := 0, done := true
        result := .success, inframe := true, inited := true, cfgTiming := Config.timingValue
        late := false, trace := s.trace ++ events, env := rest, dev := t.dev } := by
  obtain ⟨t, events, e, c, q⟩ := sendAddress_done hx h
  refine ⟨setIdx 0 (setSeq 3 t), events, ?_, c, ?_, ?_⟩
  · rw [writePageBody, e, Run.ended_andThen, q]
  · rw [q]
    rfl
  · rw [q]
    simp [setIdx, setSeq]

/-- WRITE_PAGE hangs in a byte of the page. -/
theorem writePageBody_hangsAt_data {s : State} {xs ys : List (Nat × Answer)} {r : Bool}
    {rest : List Happening} (hx : xs.length = 4) (hy : ys.length < s.ps.toNat)
    (h : s.env = completions xs ++ (completions ys ++ .reply (.never r) :: rest)) :
    HangsAt (writePageBody s) (writePageSends s) (ys.length + 4) 3 (BitVec.ofNat 16 ys.length) true
      rest s := by
  obtain ⟨t, es, e1, c1, hpage, q1⟩ := writePageBody_begins hx h
  obtain ⟨u, fs, b, e2, c2, hb, q2⟩ := writeBytes_hangs (s := t) hy
    (by rw [q1]; exact ⟨rfl, rfl, rfl, rfl⟩) (by have := s.ps.isLt; rw [q1]; simpa using this)
    (by rw [q1])
  rw [hpage] at c2 hb
  have hsplit : bufferPage s =
      (bufferPage s).take ys.length ++ b :: (bufferPage s).drop (ys.length + 1) := by
    obtain ⟨hlt, rfl⟩ := List.getElem?_eq_some_iff.1 hb
    rw [← List.drop_eq_getElem_cons hlt, List.take_append_drop]
  have hsends : writePageSends s =
      ((.start :: (addressBytes s.pn s.ps).map .byte) ++ ((bufferPage s).take ys.length).map .byte) ++
        .byte b :: (((bufferPage s).drop (ys.length + 1)).map .byte ++ [.stop]) := by
    rw [writePageSends_eq]
    conv_lhs => rw [hsplit]
    simp
  refine HangsAt.intro hsends ?_ (t := u) ?_ (sentAs_append c1 c2) ?_
  · simp [addressBytes, bufferPage_length, hy.le]
  · rw [e1, e2, Run.hung_andThen]
  · rw [q2, q1]
    simp [hungEventOf]

/-- WRITE_PAGE hangs in its STOP. -/
theorem writePageBody_hangsAt_stop {s : State} {xs ys : List (Nat × Answer)} {r : Bool}
    {rest : List Happening} (hx : xs.length = 4) (hy : ys.length = s.ps.toNat)
    (h : s.env = completions xs ++ (completions ys ++ .reply (.never r) :: rest)) :
    HangsAt (writePageBody s) (writePageSends s) (ys.length + 4) 4 s.ps true rest s := by
  obtain ⟨t, es, e1, c1, hpage, q1⟩ := writePageBody_begins hx h
  obtain ⟨u, fs, e2, c2, q2⟩ := writeBytes_done (s := t) hy
    (by rw [q1]; exact ⟨rfl, rfl, rfl, rfl⟩) (by have := s.ps.isLt; rw [q1]; simpa using this)
    (by rw [q1])
  obtain ⟨v, e3, q3⟩ := transmit_hangs (e := .stop) (s := setSeq 4 u) (r := r) (rest := rest)
    (by rw [q2]; rfl)
  rw [hpage] at c2
  have hsends : writePageSends s =
      ((.start :: (addressBytes s.pn s.ps).map .byte) ++ (bufferPage s).map .byte) ++ [.stop] := by
    rw [writePageSends_eq, List.append_assoc]
  refine HangsAt.intro hsends ?_ (t := v) ?_ (sentAs_append c1 c2) ?_
  · simp [addressBytes, bufferPage_length, hy]
  · rw [e1, e2, Run.ended_andThen, e3]
  · rw [q3, q2, q1]
    simp [setSeq]

/-- WRITE_PAGE hangs at the first handshake that never completes. -/
theorem writePageBody_hangsAt {s : State} {answers : List (Nat × Answer)} {r : Bool}
    {rest : List Happening} (hl : answers.length < s.ps.toNat + 5)
    (h : s.env = completions answers ++ .reply (.never r) :: rest) :
    HangsAt (writePageBody s) (writePageSends s) answers.length
      (if answers.length < 4 then 2 else if answers.length < s.ps.toNat + 4 then 3 else 4)
      (if answers.length < 4 then s.idx else BitVec.ofNat 16 (answers.length - 4))
      (s.inframe || decide (0 < answers.length)) rest s := by
  by_cases h4 : answers.length < 4
  · rw [if_pos h4, if_pos h4, writePageSends_eq]
    exact sendAddress_hangsAt _ _ h4 h
  obtain ⟨xs, ys, rfl, hx, -⟩ := exists_append_of_length (l := answers) (m := 4)
    (n := answers.length - 4) (by omega)
  rw [completions_append, List.append_assoc] at h
  have hlength : (xs ++ ys).length = ys.length + 4 := by rw [List.length_append, hx, Nat.add_comm]
  rw [hlength] at hl h4 ⊢
  rw [if_neg h4, if_neg h4, decide_eq_true (Nat.succ_pos _), Bool.or_true, Nat.add_sub_cancel]
  by_cases hlt : ys.length < s.ps.toNat
  · rw [if_pos (by omega)]
    exact writePageBody_hangsAt_data hx hlt h
  · have heq : ys.length = s.ps.toNat := by omega
    rw [if_neg (by omega)]
    have hidx : BitVec.ofNat 16 ys.length = s.ps := by rw [heq, BitVec.ofNat_toNat, BitVec.setWidth_eq]
    rw [hidx]
    exact writePageBody_hangsAt_stop hx heq h

/-- Settles O31: in its first frame's start, in the page, or in its STOP. -/
theorem writePageHangs : Obligations.WritePageHangs := by
  unfold Obligations.WritePageHangs
  intro s answers r rest ⟨hb, hm⟩ hl h
  obtain ⟨t, events, e, hrun, hsent, hnext, ht⟩ :=
    writePageBody_hangsAt (s := launch .writePage s) hl h
  exact ⟨t, events, e, exec_hung (i := .writePage) hb hm hrun, hsent, hnext, ht⟩

/-- READ_PAGE hangs before its first inbound byte. -/
theorem readPageBody_hangsAt {s : State} {setup : List (Nat × Answer)} {r : Bool}
    {rest : List Happening} (hl : setup.length < 7)
    (h : s.env = completions setup ++ .reply (.never r) :: rest) :
    ∃ isOpen, HangsAt (readPageBody s) (readPageSends s) setup.length
      (if setup.length < 5 then 2 else 3) s.idx isOpen rest s := by
  by_cases h4 : setup.length < 4
  · rw [if_pos (by omega)]
    exact ⟨_, sendAddress_hangsAt _ [.stop, .start, .byte readIntent] h4 h⟩
  obtain ⟨xs, ys, rfl, hx, -⟩ := exists_append_of_length (l := setup) (m := 4)
    (n := setup.length - 4) (by omega)
  have hlength : (xs ++ ys).length = ys.length + 4 := by rw [List.length_append, hx, Nat.add_comm]
  rw [completions_append, List.append_assoc] at h
  rw [hlength] at hl ⊢
  obtain ⟨t, events, e, c, q⟩ := sendAddress_done hx h
  match ys with
  | [] =>
    obtain ⟨u, e1, q1⟩ := transmit_hangs (e := .stop) (s := t) (r := r) (rest := rest) (by rw [q]; rfl)
    refine ⟨true, HangsAt.intro (pre := .start :: (addressBytes s.pn s.ps).map .byte) (e := .stop)
      rfl rfl (t := u) ?_ c ?_⟩
    · rw [readPageBody, e, Run.ended_andThen, e1, Run.hung_andThen]
    · rw [q1, q]
      simp
  | [y] =>
    obtain ⟨v1, t1, c1, e1, q1⟩ := transmit_done (e := .stop) (s := t) (by rw [q]; rfl)
    obtain ⟨u, e2, q2⟩ := transmit_hangs (e := .start) (s := setSeq 3 t1) (r := r) (rest := rest)
      (by rw [q1]; rfl)
    refine ⟨false, HangsAt.intro (pre := (.start :: (addressBytes s.pn s.ps).map .byte) ++ [.stop])
      (e := .start) rfl rfl (t := u) ?_ (sentAs_append c (.cons c1 .nil)) ?_⟩
    · rw [readPageBody, e, Run.ended_andThen, e1, Run.ended_andThen, e2, Run.hung_andThen]
    · rw [q2, q1, q]
      simp [setSeq, frameFlag]
  | [y, z] =>
    obtain ⟨v1, t1, c1, e1, q1⟩ := transmit_done (e := .stop) (s := t) (by rw [q]; rfl)
    obtain ⟨v2, t2, c2, e2, q2⟩ := transmit_done (e := .start) (s := setSeq 3 t1) (by rw [q1]; rfl)
    obtain ⟨u, e3, q3⟩ := sendByte_hangs (b := readIntent) (s := t2) (r := r) (rest := rest)
      (by rw [q2]; rfl)
    refine ⟨true, HangsAt.intro
      (pre := (.start :: (addressBytes s.pn s.ps).map .byte) ++ [.stop, .start])
      (e := .byte readIntent) rfl rfl (t := u) ?_ (sentAs_append c (.cons c1 (.cons c2 .nil))) ?_⟩
    · rw [readPageBody, e, Run.ended_andThen, e1, Run.ended_andThen, e2, Run.ended_andThen, e3,
        Run.hung_andThen]
    · rw [q3, q2, q1, q]
      simp [setSeq, frameFlag, hungEventOf]
  | _ :: _ :: _ :: _ => exact absurd hl (by simp)

end Sys2Proof.Machine
end

section
/-! SUPPORT. The family of 41_page_client.md: READ_PAGE on a bus that delivers its bytes within the budget,
up to its end, to a hang, or to a byte that times out. -/

namespace Sys2Proof.Machine

open Sys2Proof.Safety

/-! ## The page -/

theorem toNat_ne_zero_of_needPage {s : State} (h : needPage s = none) : s.ps.toNat ≠ 0 := by
  obtain ⟨-, -, -, hps, -⟩ := needPage_none h
  exact fun hz => hps (BitVec.eq_of_toNat_eq hz)

/-- An address that is no byte of the buffer is none of its bytes from `i` on either. -/
theorem ne_of_not_inBuffer {s : State} {a : Nat} (h : ¬ inBuffer s a) {i : Nat} (hi : i < s.ps.toNat) :
    a ≠ (s.buf + i) % hostSize s := fun ha => h ⟨i, hi, ha⟩

/-- READ_PAGE up to its last STOP on a bus that delivers every byte within the budget. -/
theorem readPageBody_reads {s : State} {setup reads : List (Nat × Answer)} {rest : List Happening}
    (hm : needPage s = none) (hwf : hostWf s = true) (hx : setup.length = 7)
    (hn : reads.length = s.ps.toNat) (hb : inBudget s.retryBudget reads)
    (h : s.env = completions setup ++ (completions reads ++ rest)) :
    ∃ t events bytes, readPageBody s = paced (transmit .stop) t ∧ sentAs (readPageSends s) events ∧
      bytes.length = s.ps.toNat ∧ pageAt t.hostMem (hostSize s) s.buf s.ps.toNat = bytes ∧
      givenBytes reads bytes ∧
      (∀ a, ¬ inBuffer s a → Memory.read t.hostMem a = Memory.read s.hostMem a) ∧ t = { s with
        data := bytes.getLastD 0, addr := pageAddress s.pn s.ps
        written := { s.written with data := true, addr := true }, seq := 5, idx := s.ps, done := true
        ackf := .term, result := .success, inframe := true, inited := true
        cfgTiming := Config.timingValue, cnt := BitVec.ofNat 32 (reads.getLastD (0, .device)).1
        late := false, trace := s.trace ++ events ++ readEvents bytes, hostMem := t.hostMem
        dev := t.dev, env := rest, draws := t.draws } := by
  obtain ⟨t, events, e1, c, q1⟩ := readPageBody_begins hx h
  have hsize : hostSize t = hostSize s := by rw [q1]; rfl
  have haddress : byteAddress t = s.buf := by rw [q1]; simp [byteAddress]
  have hmem : t.hostMem = s.hostMem := by rw [q1]
  have hps := toNat_ne_zero_of_needPage hm
  obtain ⟨u, bytes, e2, hlength, hpage, hgiven, hframe, q2⟩ := readBytes_done (s := t) hn
    (by rw [q1]; exact ⟨rfl, rfl, rfl, rfl⟩) (by rw [q1]; simp) (hsize ▸ (needPage_fits hm).le)
    (by rw [hsize, hmem]; exact hwf) (by rw [q1]; exact hb) (by rw [q1])
  rw [hsize, haddress] at hpage hframe
  rw [hmem] at hframe
  have hdata : bytes.getLastD t.data = bytes.getLastD 0 :=
    getLastD_of_ne_nil (fun hnil => hps (by rw [← hlength, hnil]; rfl)) _ _
  have hcnt : (reads.getLast?.map fun x => BitVec.ofNat 32 x.1).getD t.cnt =
      BitVec.ofNat 32 (reads.getLastD (0, .device)).1 := by
    have hreads : reads ≠ [] := fun hnil => hps (by rw [← hn, hnil]; rfl)
    rw [List.getLastD_eq_getLast?, List.getLast?_eq_some_getLast hreads]
    rfl
  refine ⟨setSeq 5 u, events, bytes, ?_, c, hlength, hpage, hgiven,
    fun a ha => hframe a fun i hi => ne_of_not_inBuffer ha hi, ?_⟩
  · rw [e1, e2, Run.ended_andThen]
  · rw [hdata, hcnt, if_neg hps] at q2
    rw [setSeq, q2, q1]
    simp

/-- Settles O27: `readPageBody_reads`, and a STOP that completes. -/
theorem readPageSucceeds : Obligations.ReadPageSucceeds := by
  unfold Obligations.ReadPageSucceeds
  intro s setup reads last rest ⟨hb, hm⟩ hwf hx hn hbudget h
  rw [List.append_assoc, List.append_assoc] at h
  obtain ⟨t, events, bytes, e, c, hlength, hpage, hgiven, hframe, q⟩ :=
    readPageBody_reads (s := launch .readPage s) hm hwf hx hn hbudget h
  obtain ⟨v, u, rfl, e2, q2⟩ := transmit_done (e := .stop) (s := t) (d := last.1) (x := last.2)
    (rest := rest) (by rw [q]; rfl)
  have hmem : u.hostMem = t.hostMem := by rw [q2]
  refine ⟨finish u, events, bytes, exec_ended (i := .readPage) hb hm (e.trans e2), c, hlength,
    hmem ▸ hpage, hgiven, hmem ▸ hframe, ?_⟩
  rw [q2, q]
  simp [finish, launch, hb, frameFlag]

/-- Settles O29: the handshakes before the first inbound byte leave the buffer alone; the last STOP comes
after `readPageBody_reads`. -/
theorem readPageHangs : Obligations.ReadPageHangs := by
  unfold Obligations.ReadPageHangs
  intro s r rest ⟨hb, hm⟩
  refine ⟨fun setup hl h => ?_, fun setup reads hwf hx hn hbudget h => ?_⟩
  · obtain ⟨isOpen, t, events, e, hrun, hsent, hnext, q⟩ :=
      readPageBody_hangsAt (s := launch .readPage s) hl h
    refine ⟨t, events, e, exec_hung (i := .readPage) hb hm hrun, hsent, hnext, ?_⟩
    rw [q]
    simp [opcodeOf]
  · rw [List.append_assoc] at h
    obtain ⟨t, events, bytes, e, c, hlength, hpage, hgiven, hframe, q⟩ :=
      readPageBody_reads (s := launch .readPage s) hm hwf hx hn hbudget h
    obtain ⟨u, e2, q2⟩ := transmit_hangs (e := .stop) (s := t) (r := r) (rest := rest) (by rw [q])
    have hmem : u.hostMem = t.hostMem := by rw [q2]
    refine ⟨u, events, bytes, exec_hung (i := .readPage) hb hm (e.trans e2), c, hlength,
      hmem ▸ hpage, hgiven, hmem ▸ hframe, ?_⟩
    rw [q2, q]
    simp [opcodeOf, hungEventOf]

end Sys2Proof.Machine
end

section
/-! SUPPORT. The family of 41_page_client.md: READ_PAGE where a byte of the page times out. -/

namespace Sys2Proof.Machine

open Sys2Proof.Safety

/-- CONTINUE on every byte but the last of the page, TERMINATE there. -/
theorem ackByPosition_eq {s : State} (h : s.idx.toNat < s.ps.toNat) :
    ackByPosition s = if s.idx.toNat + 1 = s.ps.toNat then .term else .cont := by
  split
  · exact ackByPosition_last ‹_›
  · exact ackByPosition_cont (by omega)

theorem ackOf_ackByPosition {s : State} (h : s.idx.toNat < s.ps.toNat) :
    ackOf (ackByPosition s) = if s.idx.toNat + 1 = s.ps.toNat then .nak else .ack := by
  rw [ackByPosition_eq h]
  split <;> rfl

/-- Two bytes of one buffer that fits the address space have addresses of their own. -/
theorem bufferAddress_ne {a i j size : Nat} (h : i < j) (hj : j < size) :
    (a + i) % size ≠ (a + j) % size := by
  have := hostAddress_ne (a := a + i) (i := j - i - 1) (n := j) (by omega) hj
  rwa [show a + i + 1 + (j - i - 1) = a + j by omega] at this

theorem pageAt_congr {m m' : Memory} {size a n : Nat}
    (h : ∀ i < n, Memory.read m' ((a + i) % size) = Memory.read m ((a + i) % size)) :
    pageAt m' size a n = pageAt m size a n := by
  induction n generalizing a with
  | zero => rfl
  | succ n ih =>
    rw [pageAt, pageAt, ih fun i hi => ?_]
    · exact congrArg (· :: _) (h 0 (Nat.succ_pos _))
    · rw [Nat.add_right_comm, Nat.add_assoc]
      exact h (i + 1) (Nat.succ_lt_succ hi)

/-- Step 4 of READ_PAGE where its next byte times out. -/
theorem readBytes_timesOut {n : Nat} {s : State} {r : Reply} {rest : List Happening}
    (hwf : hostWf s = true) (hr : timesOut s.retryBudget r) (h : s.env = .reply r :: rest) :
    ∃ t, readBytes (n + 1) s = .failed t ∧
      (∀ a, (∀ i < n + 1, a ≠ (byteAddress s + i) % hostSize s) →
        Memory.read t.hostMem a = Memory.read s.hostMem a) ∧ t = { s with
        data := t.data, written := { s.written with data := true }, ackf := ackByPosition s
        done := false, result := .failure, cnt := s.retryBudget
        trace := s.trace ++ [.rf (ackOf (ackByPosition s))]
        raised := s.raised ++ [.busTimeout (some s.idx)]
        late := t.late, hostMem := t.hostMem, dev := t.dev, env := rest, draws := t.draws } := by
  have hslow : ∀ d x, r = .complete d x → s.retryBudget.toNat ≤ d := by
    rintro d x rfl
    exact hr
  have hnoreset : ∀ b, r ≠ .reset b := by
    rintro b rfl
    exact hr
  obtain ⟨l, d, k, -, e⟩ :=
    receive_timeout (k := ackByPosition s) (i := some s.idx) h hslow hnoreset
  generalize hu : takeBusTimeout (some s.idx) _ _ _ = u at e
  have hmem : u.hostMem = s.hostMem := by rw [← hu]; rfl
  have hsize : hostSize u = hostSize s := by rw [← hu]; rfl
  have haddress : byteAddress u = byteAddress s := by rw [← hu]; rfl
  obtain ⟨-, hframe⟩ :=
    scribble_mem (n := n + 1) (a := byteAddress u) (s := u) (by rw [hsize, hmem]; exact hwf)
  rw [hsize, hmem] at hframe
  refine ⟨scribble (n + 1) (byteAddress u) u, ?_, haddress ▸ hframe, ?_⟩
  · rw [readBytes, paced_reply h, e, abortRead, Run.failed_andThen]
  · subst hu
    apply State.same <;> simp

/-- Step 4 of READ_PAGE where the byte behind the first ones times out: those are stored and acknowledged,
and what the time-out makes of the buffer lies behind them. -/
theorem readBytes_aborts {n : Nat} {s : State} {xs : List (Nat × Answer)} {r : Reply}
    {rest : List Happening} (hs : Sent s) (hp : s.idx.toNat + (xs.length + (n + 1)) = s.ps.toNat)
    (hz : xs.length + (n + 1) < hostSize s) (hwf : hostWf s = true) (hb : inBudget s.retryBudget xs)
    (hr : timesOut s.retryBudget r) (h : s.env = completions xs ++ .reply r :: rest) :
    ∃ t bytes, readBytes (xs.length + (n + 1)) s = .failed t ∧ bytes.length = xs.length ∧
      pageAt t.hostMem (hostSize s) (byteAddress s) xs.length = bytes ∧ givenBytes xs bytes ∧
      (∀ a, (∀ i < xs.length + (n + 1), a ≠ (byteAddress s + i) % hostSize s) →
        Memory.read t.hostMem a = Memory.read s.hostMem a) ∧ t = { s with
        data := t.data, ackf := if n = 0 then .term else .cont, done := false, result := .failure
        cnt := s.retryBudget, idx := s.idx + BitVec.ofNat 16 xs.length
        trace := s.trace ++ bytes.map (fun b => .r b .ack) ++ [.rf (if n = 0 then .nak else .ack)]
        raised := s.raised ++ [.busTimeout (some (s.idx + BitVec.ofNat 16 xs.length))]
        late := t.late, hostMem := t.hostMem, dev := t.dev, env := rest, draws := t.draws } := by
  have hword := s.ps.isLt
  obtain ⟨u, bytes, e, hlength, hpage, hgiven, hframe, huwf, q⟩ :=
    readBytes_onward (n := n + 1) hs (by omega) (by omega) hwf hb h
  have husize : hostSize u = hostSize s := by rw [q]; rfl
  have hindex : u.idx.toNat = s.idx.toNat + xs.length := by
    rw [q, BitVec.toNat_add, BitVec.toNat_ofNat]
    omega
  have haddress : byteAddress u = byteAddress s + xs.length := by
    rw [byteAddress, hindex, q, byteAddress, Nat.add_assoc]
  have hups : u.ps = s.ps := by rw [q]
  have hlast : u.idx.toNat + 1 = u.ps.toNat ↔ n = 0 := by rw [hindex, hups]; omega
  have hack := ackOf_ackByPosition (s := u) (by rw [hindex, hups]; omega)
  have hackf := ackByPosition_eq (s := u) (by rw [hindex, hups]; omega)
  simp only [hlast] at hack hackf
  obtain ⟨v, e', hbehind, q'⟩ := readBytes_timesOut (n := n) (s := u) (r := r) (rest := rest)
    (by rw [hostWf, husize]; exact huwf) (by rw [q]; exact hr) (by rw [q])
  rw [haddress, husize] at hbehind
  refine ⟨v, bytes, e.trans e', hlength, ?_, hgiven, fun a ha => ?_, ?_⟩
  · refine (pageAt_congr fun i hi => hbehind _ fun j hj => ?_).trans hpage
    rw [Nat.add_assoc]
    exact bufferAddress_ne (by omega) (by omega)
  · refine (hbehind a fun j hj => ?_).trans (hframe a fun i hi => ha i (by omega))
    rw [Nat.add_assoc]
    exact ha _ (by omega)
  · obtain ⟨-, -, -, hdata⟩ := hs
    rw [hack, hackf] at q'
    rw [q', q]
    simp [← hdata]

/-- Settles O28: after the seven handshakes before it, step 4 aborts at the byte that times out. -/
theorem readPageAborts : Obligations.ReadPageAborts := by
  unfold Obligations.ReadPageAborts
  intro s setup reads r rest ⟨hb, hm⟩ hwf hx hlt hbudget hr h
  rw [List.append_assoc] at h
  obtain ⟨n, hn⟩ : ∃ n, s.ps.toNat = reads.length + (n + 1) :=
    ⟨s.ps.toNat - reads.length - 1, by omega⟩
  obtain ⟨t, events, e1, c, q1⟩ := readPageBody_begins (s := launch .readPage s) hx h
  have hsize : hostSize t = hostSize s := by rw [q1]; rfl
  have haddress : byteAddress t = s.buf := by rw [q1]; simp [byteAddress]
  have hmem : t.hostMem = s.hostMem := by rw [q1]; rfl
  obtain ⟨u, bytes, e2, hlength, hpage, hgiven, hframe, q2⟩ :=
    readBytes_aborts (n := n) (s := t) (xs := reads) (r := r) (rest := rest)
      (by rw [q1]; exact ⟨rfl, rfl, rfl, rfl⟩) (by rw [q1]; simpa using hn.symm)
      (by rw [hsize, ← hn]; exact needPage_fits hm) (by rw [hostWf, hsize, hmem]; exact hwf)
      (by rw [q1]; exact hbudget) (by rw [q1]; exact hr) (by rw [q1])
  rw [hsize, haddress] at hpage hframe
  rw [hmem, ← hn] at hframe
  have hlast : reads.length + 1 = s.ps.toNat ↔ n = 0 := by omega
  refine ⟨finish u, events, bytes, ?_, c, hlength, hpage, hgiven,
    fun a ha => hframe a fun i hi => ne_of_not_inBuffer ha hi, ?_⟩
  · rw [exec_ready (i := .readPage) hb hm, body, e1, launch_ps, hn, e2, Run.failed_andThen,
      Run.outcome]
  · simp only [hlast]
    rw [q2, q1]
    simp [finish, launch, hb]

end Sys2Proof.Machine
end

section
/-! SUPPORT. The family of 41_page_client.md: the acknowledgments that READ_PAGE drives with its inbound
bytes, whatever the bus does. -/

namespace Sys2Proof.Machine

open Sys2Proof.Safety

/-! ## Acknowledgments in a history -/

theorem inboundAck_eventOf (e : Outbound) (x : Answer) (s : State) : inboundAck (eventOf e x s) = none := by
  cases e <;> rfl

theorem inboundAck_hungEventOf (e : Outbound) : inboundAck (hungEventOf e) = none := by
  cases e <;> rfl

/-- Since the history was `l`, these acknowledgments were driven with inbound bytes. -/
def Acked (l : List Event) (acks : List Ack) (s : State) : Prop :=
  ∃ gained, s.trace = l ++ gained ∧ inboundAcks gained = acks

theorem Acked.of_trace_eq {l : List Event} {acks : List Ack} {s t : State} (h : Acked l acks s)
    (ht : t.trace = s.trace) : Acked l acks t := by
  rw [Acked, ht]
  exact h

theorem Acked.concat {l : List Event} {acks : List Ack} {s t : State} {e : Event} (h : Acked l acks s)
    (ht : t.trace = s.trace ++ [e]) : Acked l (acks ++ (inboundAck e).toList) t := by
  obtain ⟨gained, hs, hacks⟩ := h
  refine ⟨gained ++ [e], by rw [ht, hs, List.append_assoc], ?_⟩
  rw [← hacks, inboundAcks, inboundAcks, List.filterMap_append]
  cases he : inboundAck e <;> simp [he]

/-- An event of no inbound byte drives no acknowledgment. -/
theorem Acked.concat_none {l : List Event} {acks : List Ack} {s t : State} {e : Event}
    (h : Acked l acks s) (he : inboundAck e = none) (ht : t.trace = s.trace ++ [e]) : Acked l acks t := by
  have := h.concat ht
  rwa [he, Option.toList_none, List.append_nil] at this

/-- The acknowledgments of a page, up to the byte of index `m` and with it. -/
theorem pageAcks_take_succ {m n : Nat} (h : m < n) :
    (pageAcks n).take (m + 1) = (pageAcks n).take m ++ [if m + 1 = n then .nak else .ack] := by
  have hlength : m < (pageAcks n).length := by simp [pageAcks]; omega
  rw [List.take_succ_eq_append_getElem hlength]
  congr 2
  split
  · simp [pageAcks, show n - 1 = m by omega]
  · simp [pageAcks, show m < n - 1 by omega]

theorem pageAcks_take_self {n : Nat} (h : n ≠ 0) : (pageAcks n).take n = pageAcks n :=
  List.take_of_length_le (by simp [pageAcks]; omega)

/-! ## READ_PAGE -/

/-- Inside READ_PAGE of a page of `n` bytes, with these acknowledgments driven. -/
def Acking (l : List Event) (n : Word) (acks : List Ack) (s : State) : Prop :=
  s.busy = true ∧ s.ps = n ∧ Acked l acks s

/-- READ_PAGE hung, with the acknowledgments of the first bytes of the page driven. -/
def AckedHung (l : List Event) (n : Word) (s : State) : Prop :=
  s.busy = true ∧ ∃ acks, acks <+: pageAcks n.toNat ∧ Acked l acks s

/-- READ_PAGE failed, with the acknowledgments of the first bytes of the page driven. -/
def AckedFailed (l : List Event) (n : Word) (s : State) : Prop :=
  s.result = .failure ∧ ∃ acks, acks <+: pageAcks n.toNat ∧ Acked l acks s

section
variable {l : List Event} {n : Word} {acks : List Ack}

theorem Acking.gaps {s t : State} (h : Acking l n acks s) (hg : Gaps s t) : Acking l n acks t := by
  rw [hg.eq]
  exact h

/-- An outbound primitive drives no acknowledgment. -/
theorem transmit_acking (hacks : acks <+: pageAcks n.toNat) (e : Outbound) {s : State}
    (h : Acking l n acks s) :
    (transmit e s).Ends (Acking l n acks) (fun _ => False) (AckedHung l n) atResetValues := by
  obtain ⟨hbusy, hps, hacked⟩ := h
  refine transmit_ends (fun x t hw => ⟨?_, ?_, ?_⟩) (fun r t hw => ⟨?_, acks, hacks, ?_⟩)
    (fun _ _ _ => takeReset_atResetValues _)
  · rw [hw.eq]; simpa using hbusy
  · rw [hw.eq]; simpa using hps
  · exact hacked.concat_none (inboundAck_eventOf e x t) (by simp [hw.trace_eq])
  · rw [hw.eq]; simpa using hbusy
  · exact hacked.concat_none (inboundAck_hungEventOf e) (by simp [hw.trace_eq])

theorem acking_carries (hacks : acks <+: pageAcks n.toNat) :
    Carries (Acking l n acks) (Acking l n acks) (AckedFailed l n) (AckedHung l n) atResetValues where
  seqP _ _ h := h
  seqQ _ _ h := h
  idxQ _ _ h := h
  gapP _ _ h hg := h.gaps hg
  gapQ _ _ h hg := h.gaps hg
  resetP _ _ _ _ := takeReset_atResetValues _
  resetQ _ _ _ _ := takeReset_atResetValues _
  start _ h := transmit_acking hacks _ h
  stop _ h := transmit_acking hacks _ h
  send _ _ h := transmit_acking hacks _ h

theorem acking_begins {s : State} (h : Acking l n acks s) :
    Begins (Acking l n acks) (Acking l n acks) atResetValues s where
  launched := h
  gap _ _ hu hg := hu.gaps hg
  reset _ _ _ _ := takeReset_atResetValues _
  init _ hu := hu

/-- A byte of READ_PAGE drives one acknowledgment, or is abandoned by reset. -/
theorem receive_acking {k : AckFlag} {i m : Word} {s : State}
    (hacks : acks ++ [ackOf k] <+: pageAcks n.toNat) (h : Acking l n acks s) (hm : s.idx = m) :
    (receive k (some i) s).Ends (fun t => Acking l n (acks ++ [ackOf k]) t ∧ t.idx = m)
      (AckedFailed l n) (fun _ => False) atResetValues := by
  obtain ⟨hbusy, hps, hacked⟩ := h
  refine receive_ends (fun x d t hw _ => ⟨⟨?_, ?_, ?_⟩, ?_⟩)
    (fun t _ d _ hw _ => ⟨rfl, acks ++ [ackOf k], hacks, ?_⟩) (fun _ _ _ => takeReset_atResetValues _)
  · rw [hw.eq]; simpa using hbusy
  · rw [hw.eq]; simpa using hps
  · exact hacked.concat (e := .r (inboundByte x t) (ackOf k)) (by simp [hw.trace_eq])
  · rw [hw.eq]; simpa using hm
  · exact hacked.concat (e := .rf (ackOf k)) (by simp [hw.trace_eq])

end

/-- Step 4 of READ_PAGE acknowledges the bytes of the page by their position, as far as it gets. -/
theorem readBytes_acking {l : List Event} {n : Word} (hn : n.toNat ≠ 0) (left : Nat) {s : State}
    (hleft : s.idx.toNat + left = n.toNat)
    (h : Acking l n ((pageAcks n.toNat).take s.idx.toNat) s) :
    (readBytes left s).Ends (Acking l n (pageAcks n.toNat)) (AckedFailed l n) (fun _ => False)
      atResetValues := by
  induction left generalizing s with
  | zero =>
    rw [Nat.add_zero] at hleft
    rw [hleft, pageAcks_take_self hn] at h
    exact h
  | succ left ih =>
    obtain ⟨-, hps, -⟩ := id h
    have hnext : (pageAcks n.toNat).take (s.idx.toNat + 1) =
        (pageAcks n.toNat).take s.idx.toNat ++ [ackOf (ackByPosition s)] := by
      rw [pageAcks_take_succ (by omega), ackOf_ackByPosition (by rw [hps]; omega), hps]
    have hprefix := List.take_prefix (s.idx.toNat + 1) (pageAcks n.toNat)
    rw [hnext] at hprefix
    have hbyte : (paced (receive (ackByPosition s) (some s.idx)) s).Ends
        (fun t => Acking l n ((pageAcks n.toNat).take (s.idx.toNat + 1)) t ∧ t.idx = s.idx)
        (AckedFailed l n) (fun _ => False) atResetValues := by
      rw [hnext]
      exact paced_ends (fun t hg => receive_acking hprefix (h.gaps hg) (by rw [hg.eq]))
        (fun _ _ => takeReset_atResetValues _)
    refine (abortRead_ends (fun _ _ _ hu => hu) hbyte).andThen fun t ⟨ht, hidx⟩ => ?_
    have hindex : (setIdx (t.idx + 1) (memWrite (byteAddress t) t.data t)).idx.toNat =
        s.idx.toNat + 1 := by
      rw [setIdx_idx, hidx, BitVec.toNat_add]
      have := n.isLt
      simp
      omega
    exact ih (by omega) (by rw [hindex]; exact ht)

/-- Everything READ_PAGE can do, where its inbound bytes lead from one predicate inside a frame to another. -/
theorem readPageBody_ends_across {B P Q P' Q' F H R : State → Prop} (h : Carries P Q F H R)
    (h' : Carries P' Q' F H R) {s : State} (hs : Begins B P R s)
    (hreads : ∀ u, Q u → (readBytes u.ps.toNat (setIdx 0 u)).Ends Q' F (fun _ => False) R) :
    (readPageBody s).Ends P' F H R := by
  have neverFails : ∀ {x : Run} {C : State → Prop}, x.Ends C (fun _ => False) H R → x.Ends C F H R :=
    fun hx => hx.mono (fun _ => id) (fun _ => False.elim) (fun _ => id) (fun _ => id)
  have neverHangs : ∀ {x : Run} {C : State → Prop}, x.Ends C F (fun _ => False) R → x.Ends C F H R :=
    fun hx => hx.mono (fun _ => id) (fun _ => id) (fun _ => False.elim) (fun _ => id)
  exact (neverFails (sendAddress_ends h hs)).andThen fun _ ht =>
    (neverFails (h.paceStop ht)).andThen fun _ hu =>
    (neverFails (h.paceStart (h.seqP _ _ hu))).andThen fun _ hv =>
    (neverFails (h.paceSend _ hv)).andThen fun w hw =>
    (neverHangs (hreads (setSeq 4 w) (h.seqQ _ _ hw))).andThen fun _ hx =>
    neverFails (h'.paceStop (h'.seqQ _ _ hx))

/-- Settles O60: up to the first inbound byte no acknowledgment is driven, and after the last one all of
them are. -/
theorem acknowledgmentsGoByPosition : Obligations.AcknowledgmentsGoByPosition := by
  unfold Obligations.AcknowledgmentsGoByPosition
  intro s t ⟨hb, hm⟩ h
  have hn := toNat_ne_zero_of_needPage hm
  have hlaunch : Acking s.trace s.ps [] (launch .readPage s) := ⟨rfl, rfl, [], by simp, rfl⟩
  have hbefore := acking_carries (l := s.trace) (n := s.ps) (List.nil_prefix)
  have hafter := acking_carries (l := s.trace) (n := s.ps) (List.prefix_rfl)
  have hends := readPageBody_ends_across hbefore hafter (acking_begins hlaunch) fun u hu => by
    obtain ⟨-, hps, -⟩ := id hu
    exact readBytes_acking hn u.ps.toNat (s := setIdx 0 u) (by simp [hps]) hu
  rcases hends.outcome (exec_next hb h).2 with
    ⟨u, ⟨-, -, gained, htrace, hacks⟩, rfl⟩ | ⟨u, ⟨hfail, acks, hprefix, gained, htrace, rfl⟩, rfl⟩ |
    ⟨hbusy, acks, hprefix, gained, htrace, rfl⟩ | hreset
  · exact .inr ⟨gained, htrace, hacks ▸ List.prefix_rfl, fun _ _ => hacks⟩
  · exact .inr ⟨gained, htrace, hprefix, fun _ hok => absurd (hfail.symm.trans hok) nofun⟩
  · exact .inr ⟨gained, htrace, hprefix, fun hidle => absurd (hbusy.symm.trans hidle) nofun⟩
  · exact .inl hreset

end Sys2Proof.Machine
end

section
/-! SUPPORT. The family of 60_exceptions.md: no step answers a fault, and which commands raise Bus Timeout. -/

namespace Sys2Proof.Machine

open Sys2Proof.Safety

/-! ## No step answers a fault -/

theorem exec_ne_fault (i : Instr) (s : State) (r : Fault) : exec i s ≠ .fault r := by
  rw [exec_eq]
  exact issue_ne_fault _ _ _ _ _

theorem served_ne_fault (x : Except Refusal State) (r : Fault) : served x ≠ .fault r := by
  cases x <;> simp [served]

theorem writeCmd_ne_fault (b : Byte) (s : State) (r : Fault) : writeCmd b s ≠ .fault r := by
  unfold writeCmd
  split
  · exact exec_ne_fault _ _ _
  · simp

theorem access_ne_fault (a : Access) (s : State) (r : Fault) : access a s ≠ .fault r := by
  unfold access
  split
  · exact served_ne_fault _ _
  · split
    · exact writeCmd_ne_fault _ _ _
    · exact served_ne_fault _ _

theorem arrive_ne_fault (x : Input) (s : State) (r : Fault) : arrive x s ≠ .fault r := by
  cases x with
  | access a => exact access_ne_fault a s r
  | store a b =>
    rw [arrive]
    split <;> simp
  | reset => simp [arrive]
  | gate on => simp [arrive]
  | lateCompletion => simp [arrive]

/-- Settles O43: a command ends completed, failed, hung or reset, each a next state, or is refused; every
other arrival is served or refused. -/
theorem noStepFaults : Obligations.NoStepFaults := by
  unfold Obligations.NoStepFaults
  intro s r
  cases hi : s.inputs with
  | nil => simp [step_nil hi]
  | cons x rest =>
    rw [step_cons hi]
    exact arrive_ne_fault _ _ _

/-! ## Which commands raise Bus Timeout -/

/-- Since `s`, a command has raised nothing, and the retry budget is what it was. -/
def NoTimeoutSince (s t : State) : Prop := t.raised = s.raised ∧ t.retryBudget = s.retryBudget

/-- Since `s`, a command has raised one Bus Timeout, for the byte of index `i`, and stands at its effects
(60_exceptions.md rule R107). -/
def OneTimeoutSince (i : Option Word) (s t : State) : Prop :=
  t.result = .failure ∧ t.cnt = s.retryBudget ∧ t.done = false ∧ t.raised = s.raised ++ [.busTimeout i]

section
variable {s : State}

theorem NoTimeoutSince.gaps {t u : State} (h : NoTimeoutSince s t) (hg : Gaps t u) :
    NoTimeoutSince s u := by
  rw [hg.eq]
  exact h

/-- An outbound primitive waits without bound, and raises nothing. -/
theorem transmit_noTimeout (e : Outbound) {t : State} (h : NoTimeoutSince s t) :
    (transmit e t).Ends (NoTimeoutSince s) (fun _ => False) (NoTimeoutSince s) atResetValues := by
  refine transmit_ends (fun x u hw => ?_) (fun r u hw => ?_) (fun _ _ _ => takeReset_atResetValues _)
  all_goals
    rw [hw.eq]
    simpa [NoTimeoutSince] using h

/-- An inbound byte raises Bus Timeout exactly when it fails, and with the index it was given. -/
theorem receive_oneTimeout (k : AckFlag) (i : Option Word) {t : State} (h : NoTimeoutSince s t) :
    (receive k i t).Ends (NoTimeoutSince s) (OneTimeoutSince i s) (fun _ => False) atResetValues := by
  refine receive_ends (fun x d u hw _ => ?_) (fun u l d n hw _ => ?_)
    (fun _ _ _ => takeReset_atResetValues _)
  · rw [hw.eq]
    simpa [NoTimeoutSince] using h
  · obtain ⟨hraised, hbudget⟩ := h
    rw [hw.eq]
    exact ⟨rfl, hbudget, rfl, by simp [hraised]⟩

theorem noTimeout_carries (F : State → Prop) :
    Carries (NoTimeoutSince s) (NoTimeoutSince s) F (NoTimeoutSince s) atResetValues where
  seqP _ _ h := h
  seqQ _ _ h := h
  idxQ _ _ h := h
  gapP _ _ h hg := h.gaps hg
  gapQ _ _ h hg := h.gaps hg
  resetP _ _ _ _ := takeReset_atResetValues _
  resetQ _ _ _ _ := takeReset_atResetValues _
  start _ h := transmit_noTimeout _ h
  stop _ h := transmit_noTimeout _ h
  send _ _ h := transmit_noTimeout _ h

/-- Every inbound byte of READ_PAGE carries its index, and the first one that fails is the last. -/
theorem noTimeout_carriesReads :
    CarriesReads (NoTimeoutSince s) (fun t => ∃ f, OneTimeoutSince (some f) s t) atResetValues where
  store _ _ _ h := h
  idxQ _ _ h := h
  gapQ _ _ h hg := h.gaps hg
  resetQ _ _ _ _ := takeReset_atResetValues _
  receive k i _ h := (receive_oneTimeout k (some i) h).mono (fun _ => id) (fun _ hf => ⟨i, hf⟩)
    (fun _ => id) (fun _ => id)
  scribble _ _ _ h := h

theorem noTimeout_begins {t : State} (h : NoTimeoutSince s t) :
    Begins (NoTimeoutSince s) (NoTimeoutSince s) atResetValues t where
  launched := h
  gap _ _ hu hg := hu.gaps hg
  reset _ _ _ _ := takeReset_atResetValues _
  init _ hu := hu

end

/-- Settles O45: outbound primitives raise nothing, and the inbound byte that fails ends its command, with no
index in READ_BYTE by hand and with its own in READ_PAGE. -/
theorem onlyInboundBytesRaise : Obligations.OnlyInboundBytesRaise := by
  unfold Obligations.OnlyInboundBytesRaise
  intro i s t hb h
  have hlaunch : NoTimeoutSince s (launch i s) := ⟨rfl, rfl⟩
  have hbegins := noTimeout_begins hlaunch
  rcases exec_ends (C := NoTimeoutSince s) (H := NoTimeoutSince s) (R := atResetValues)
      (F := fun u => (∃ k, i = .readByte k ∧ OneTimeoutSince none s u) ∨
        (i = .readPage ∧ ∃ f, OneTimeoutSince (some f) s u)) hb h
      (fun _ => hlaunch)
      (fun _ _ => transmit_noTimeout _ hlaunch)
      (fun _ _ _ => transmit_noTimeout _ hlaunch)
      (fun _ _ _ => transmit_noTimeout _ hlaunch)
      (fun k hi _ _ => (receive_oneTimeout k none hlaunch).mono (fun _ => id)
        (fun _ hf => .inl ⟨k, hi, hf⟩) (fun _ => id) (fun _ => id))
      (fun hi _ => (readPageBody_ends (noTimeout_carries _) noTimeout_carriesReads hbegins).mono
        (fun _ => id) (fun _ hf => .inr ⟨hi, hf⟩) (fun _ => id) (fun _ => id))
      (fun _ _ => writePageBody_ends (noTimeout_carries fun _ => False) hbegins)
    with ⟨u, ⟨hraised, -⟩, rfl⟩ | ⟨u, hfailed, -, rfl⟩ | ⟨⟨hraised, -⟩, -⟩ | hreset
  · exact .inl hraised
  · rcases hfailed with ⟨k, hi, hresult, hcnt, hdone, hraised⟩ | ⟨hi, f, hresult, hcnt, hdone, hraised⟩
    · exact .inr (.inr ⟨hresult, hcnt, hdone, rfl, .inl ⟨k, hi, hraised⟩⟩)
    · exact .inr (.inr ⟨hresult, hcnt, hdone, rfl, .inr ⟨hi, f, hraised⟩⟩)
  · exact .inl hraised
  · exact .inr (.inl hreset)

end Sys2Proof.Machine
end

section
/-! SUPPORT. The family of 70_reset_and_hazards.md: the reset input and the host's stores between commands, and
the ways a command ends. -/

namespace Sys2Proof.Machine

open Sys2Proof.Safety

/-! ## The reset input, and the host's stores -/

/-- Settles O13: the arrival is `takeReset`, which keeps the environment and the parameters. -/
theorem resetInputTakesEffectAtOnce : Obligations.ResetInputTakesEffectAtOnce := by
  unfold Obligations.ResetInputTakesEffectAtOnce
  intro s rest hi
  exact ⟨_, step_cons hi, takeReset_atResetValues _, rfl, rfl, rfl, rfl, rfl, rfl⟩

theorem ownsBuffer_iff (s : State) :
    ownsBuffer s = true ↔ s.busy = true ∧ (s.op = some 0b1000 ∨ s.op = some 0b1001) := by
  rw [ownsBuffer, Bool.and_eq_true, Bool.or_eq_true, decide_eq_true_iff, decide_eq_true_iff]
  rfl

/-- Settles O41: whether a page command owns the buffer decides, and a store that is served is `memWrite`. -/
theorem hostStoresOneByte : Obligations.HostStoresOneByte := by
  unfold Obligations.HostStoresOneByte
  intro s a b rest hi hwf
  rw [step_cons hi, arrive]
  refine ⟨fun hfree => ⟨memWrite a b { s with inputs := rest }, if_neg fun howns => ?_, rfl,
    fun c => memWrite_read a c b hwf⟩, fun hb hop => if_pos ?_⟩
  · obtain ⟨hb, hop⟩ := (ownsBuffer_iff _).1 howns
    rcases hfree with hidle | ⟨hread, hwrite⟩
    · exact Bool.false_ne_true (hidle.symm.trans hb)
    · exact hop.elim hread hwrite
  · exact (ownsBuffer_iff _).2 ⟨hb, hop⟩

/-! ## The ways a command ends -/

/-- Inside a command, behind a primitive that succeeded. -/
def Succeeding (s : State) : Prop := s.busy = true ∧ s.result = .success

theorem Succeeding.gaps {s t : State} (h : Succeeding s) (hg : Gaps s t) : Succeeding t := by
  rw [hg.eq]
  exact h

/-- An outbound primitive succeeds, or leaves `BUSY = 1` in a hang. -/
theorem transmit_succeeds (e : Outbound) {s : State} (h : s.busy = true) :
    (transmit e s).Ends Succeeding (fun _ => False) (·.busy = true) atResetValues := by
  refine transmit_ends (fun x t hw => ?_) (fun r t hw => ?_) (fun _ _ _ => takeReset_atResetValues _)
  all_goals rw [hw.eq]
  · exact ⟨by simpa using h, by simp⟩
  · simpa using h

/-- An inbound byte succeeds or fails. -/
theorem receive_succeeds (k : AckFlag) (i : Option Word) {s : State} (h : s.busy = true) :
    (receive k i s).Ends Succeeding (·.result = .failure) (fun _ => False) atResetValues := by
  refine receive_ends (fun x d t hw _ => ?_) (fun _ _ _ _ _ _ => rfl)
    (fun _ _ _ => takeReset_atResetValues _)
  rw [hw.eq]
  exact ⟨by simpa using h, by simp⟩

theorem succeeding_carries (F : State → Prop) :
    Carries Succeeding Succeeding F (·.busy = true) atResetValues where
  seqP _ _ h := h
  seqQ _ _ h := h
  idxQ _ _ h := h
  gapP _ _ h hg := h.gaps hg
  gapQ _ _ h hg := h.gaps hg
  resetP _ _ _ _ := takeReset_atResetValues _
  resetQ _ _ _ _ := takeReset_atResetValues _
  start _ h := transmit_succeeds _ h.1
  stop _ h := transmit_succeeds _ h.1
  send _ _ h := transmit_succeeds _ h.1

theorem succeeding_carriesReads : CarriesReads Succeeding (·.result = .failure) atResetValues where
  store _ _ _ h := h
  idxQ _ _ h := h
  gapQ _ _ h hg := h.gaps hg
  resetQ _ _ _ _ := takeReset_atResetValues _
  receive k i _ h := receive_succeeds k (some i) h.1
  scribble _ _ _ h := h

/-- INIT leaves Success, whatever stood there before. -/
theorem succeeding_begins {s : State} (h : s.busy = true) :
    Begins (·.busy = true) Succeeding atResetValues s where
  launched := h
  gap _ _ hu hg := by rw [hg.eq]; exact hu
  reset _ _ _ _ := takeReset_atResetValues _
  init _ hu := ⟨hu, rfl⟩

/-- Settles O44: only an inbound byte can fail, and only an outbound primitive can hang, which leaves `BUSY`
at 1. -/
theorem commandsEndInOneOfTheWays : Obligations.CommandsEndInOneOfTheWays := by
  unfold Obligations.CommandsEndInOneOfTheWays
  intro i s t hb h
  have hbusy : (launch i s).busy = true := rfl
  have hbegins := succeeding_begins hbusy
  rcases exec_ends (C := Succeeding) (F := (·.result = .failure)) (H := (·.busy = true))
      (R := atResetValues) hb h
      (fun _ => ⟨hbusy, rfl⟩)
      (fun _ _ => transmit_succeeds _ hbusy)
      (fun _ _ _ => transmit_succeeds _ hbusy)
      (fun _ _ _ => transmit_succeeds _ hbusy)
      (fun k _ _ _ => receive_succeeds k none hbusy)
      (fun _ _ => readPageBody_ends (succeeding_carries _) succeeding_carriesReads hbegins)
      (fun _ _ => writePageBody_ends (succeeding_carries fun _ => False) hbegins)
    with ⟨u, ⟨-, hresult⟩, rfl⟩ | ⟨u, hresult, hi, rfl⟩ | hhung | ⟨hidle, -, hresult, -⟩
  · exact .inl ⟨rfl, hresult⟩
  · exact .inr (.inl ⟨rfl, hresult, hi⟩)
  · exact .inr (.inr hhung)
  · exact .inl ⟨hidle, hresult⟩

end Sys2Proof.Machine
end

section
/-! SUPPORT. The family of 70_reset_and_hazards.md: a command with a reset still ahead of it, followed from
handshake to handshake up to that reset. -/

namespace Sys2Proof.Machine

open Sys2Proof.Safety

/-! ## Runs that complete or are reset -/

/-- A run that completes or is reset, with what holds of the state at either end. -/
def Run.Goes (E R : State → Prop) : Run → Prop
  | .ended s => E s
  | .reset s => R s
  | .failed _ | .hung _ | .refused _ => False

theorem Run.Goes.mono {E E' R R' : State → Prop} {x : Run} (h : x.Goes E R) (hE : ∀ s, E s → E' s)
    (hR : ∀ s, R s → R' s) : x.Goes E' R' := by
  cases x <;> simp only [Run.Goes] at h ⊢
  · exact hE _ h
  · exact hR _ h

theorem Run.Goes.andThen {E E' R : State → Prop} {x : Run} {f : State → Run} (h : x.Goes E R)
    (hf : ∀ s, E s → (f s).Goes E' R) : (x.andThen f).Goes E' R := by
  cases x <;> simp only [Run.Goes] at h
  · exact hf _ h
  · exact h

/-- Where such a run completes, what `Ends` says of its completed states holds too. -/
theorem Run.Goes.and_ends {E R C F H : State → Prop} {x : Run} (h : x.Goes E R)
    (hx : x.Ends C F H (fun _ => True)) : x.Goes (fun s => C s ∧ E s) R := by
  cases x <;> simp only [Run.Goes] at h
  · exact ⟨hx, h⟩
  · exact h

/-- A run that does not complete is reset. -/
theorem Run.Goes.outcome {R : State → Prop} {x : Run} (h : x.Goes (fun _ => False) R) :
    ∃ t, x.outcome = .next t ∧ R t := by
  cases x <;> simp only [Run.Goes] at h
  exact ⟨_, rfl, h⟩

/-! ## A reset ahead -/

/-- Host memory, and what the stores and the polls of a command depend on besides it. -/
def caller (s : State) : Memory × Nat × Nat × Word × BitVec 32 :=
  (s.hostMem, s.hostAw, s.buf, s.ps, s.retryBudget)

theorem caller_eq_iff (s c : State) : caller s = caller c ↔ s.hostMem = c.hostMem ∧
    s.hostAw = c.hostAw ∧ s.buf = c.buf ∧ s.ps = c.ps ∧ s.retryBudget = c.retryBudget := by
  simp only [caller, Prod.mk.injEq]

/-- A command runs with host memory and operands as `c` has them; `x`, and `rest` behind it, come once the
answers `xs` have been given. -/
def Ahead (c : State) (x : Happening) (rest : List Happening) (xs : List (Nat × Answer)) (s : State) :
    Prop :=
  s.busy = true ∧ caller s = caller c ∧
    ∃ before, s.env = before ++ x :: rest ∧ undisturbed xs before

/-- The command was abandoned by a reset with `rest` still to come, and left a host memory as `M` says. -/
def Abandoned (rest : List Happening) (M : Memory → Prop) (s : State) : Prop :=
  atResetValues s ∧ s.env = rest ∧ M s.hostMem

/-- Where the reset was the next thing to happen, the command is abandoned with the memory it found. -/
theorem abandoned_takeReset {c s : State} {rest : List Happening} (he : s.env = rest)
    (hc : caller s = caller c) : Abandoned rest (· = c.hostMem) (takeReset s) :=
  ⟨takeReset_atResetValues s, he, ((caller_eq_iff s c).1 hc).1⟩

theorem undisturbed_nil {xs : List (Nat × Answer)} (h : undisturbed xs []) : xs = [] :=
  List.map_eq_nil_iff.1 h.2.symm

theorem undisturbed_reply {xs : List (Nat × Answer)} {r : Reply} {hs : List Happening}
    (h : undisturbed xs (.reply r :: hs)) :
    ∃ y ys, r = .complete y.1 y.2 ∧ xs = y :: ys ∧ undisturbed ys hs := by
  obtain ⟨hh, hreplies⟩ := h
  cases xs with
  | nil => cases hreplies
  | cons y ys =>
    obtain ⟨hr, hbehind⟩ := List.cons.inj hreplies
    exact ⟨y, ys, by simpa using hr, rfl, (List.forall_mem_cons.1 hh).2, hbehind⟩

theorem undisturbed_other {xs : List (Nat × Answer)} {h : Happening} {hs : List Happening}
    (hu : undisturbed xs (h :: hs)) (hr : isReply h = false) : harmless h = true ∧ undisturbed xs hs := by
  obtain ⟨hh, hreplies⟩ := hu
  obtain ⟨hharmless, hbehind⟩ := List.forall_mem_cons.1 hh
  exact ⟨hharmless, hbehind, (filter_isReply_cons_of_not hs hr).symm.trans hreplies⟩

/-- An update that leaves `BUSY`, the schedule, host memory and the operands alone. -/
theorem Ahead.congr {c s t : State} {x : Happening} {rest : List Happening} {xs : List (Nat × Answer)}
    (h : Ahead c x rest xs s) (hb : t.busy = s.busy) (hc : caller t = caller s) (he : t.env = s.env) :
    Ahead c x rest xs t := by
  obtain ⟨hbusy, hcaller, henv⟩ := h
  exact ⟨hb.trans hbusy, hc.trans hcaller, he ▸ henv⟩

theorem Ahead.self {c s : State} {x : Happening} {rest : List Happening} {xs : List (Nat × Answer)}
    (h : Ahead c x rest xs s) : Ahead s x rest xs s := by
  obtain ⟨hbusy, -, henv⟩ := h
  exact ⟨hbusy, rfl, henv⟩

section
variable {c : State} {x : Happening} {rest : List Happening} {xs : List (Nat × Answer)}

/-! ## Waits and gaps -/

/-- The wait completes with the next answer, or is reset where there is none before the reset. -/
def Waited.Goes (E : Nat × Answer → State → Prop) (R : State → Prop) : Waited → Prop
  | .complete d a s => E (d, a) s
  | .reset _ s => R s
  | .never _ _ | .refused _ => False

theorem awaitOver_ahead (hx : assertsReset x) {before : List Happening} (hu : undisturbed xs before)
    {s : State} (hb : s.busy = true) (hc : caller s = caller c) :
    (awaitOver (before ++ x :: rest) s).Goes (fun y t => ∃ ys, xs = y :: ys ∧ Ahead c x rest ys t)
      (fun t => xs = [] ∧ t.env = rest ∧ caller t = caller c) := by
  induction before generalizing s with
  | nil =>
    rcases hx with rfl | ⟨reached, rfl⟩
    · exact ⟨undisturbed_nil hu, rfl, hc⟩
    · exact ⟨undisturbed_nil hu, rfl, hc⟩
  | cons h hs ih =>
    have hserve : ∀ a, allowedWhileBusy a = true → undisturbed xs hs → ∃ v, busyAccess a s = .ok v ∧
        (awaitOver (hs ++ x :: rest) v).Goes (fun y t => ∃ ys, xs = y :: ys ∧ Ahead c x rest ys t)
          (fun t => xs = [] ∧ t.env = rest ∧ caller t = caller c) := by
      intro a ha hbehind
      obtain ⟨values, hok, -⟩ := busyAccess_allowed ha hb
      exact ⟨_, hok, ih hbehind hb hc⟩
    rw [List.cons_append]
    cases h with
    | reply r =>
      obtain ⟨y, ys, rfl, rfl, hbehind⟩ := undisturbed_reply hu
      exact ⟨ys, rfl, hb, hc, hs, rfl, hbehind⟩
    | access a =>
      obtain ⟨ha, hbehind⟩ := undisturbed_other hu rfl
      obtain ⟨v, hok, hv⟩ := hserve a ha hbehind
      rw [awaitOver, hok]
      exact hv
    | between b =>
      obtain ⟨hh, hbehind⟩ := undisturbed_other hu rfl
      cases b with
      | access a =>
        obtain ⟨v, hok, hv⟩ := hserve a hh hbehind
        rw [awaitOver, hok]
        exact hv
      | late => exact ih hbehind hb hc
      | go => exact ih hbehind hb hc
      | reset => exact absurd hh Bool.false_ne_true

theorem await_ahead (hx : assertsReset x) {s : State} (h : Ahead c x rest xs s) :
    (await s).Goes (fun y t => ∃ ys, xs = y :: ys ∧ Ahead c x rest ys t)
      (fun t => xs = [] ∧ t.env = rest ∧ caller t = caller c) := by
  obtain ⟨hb, hc, before, henv, hu⟩ := h
  rw [await, henv]
  exact awaitOver_ahead hx hu hb hc

/-- A gap is over before the next answer comes, or is reset where there is none before the reset. -/
theorem attendOver_ahead (hx : assertsReset x) {before : List Happening} (hu : undisturbed xs before)
    {s : State} (hb : s.busy = true) (hc : caller s = caller c) :
    (attendOver (before ++ x :: rest) s).Goes (Ahead c x rest xs)
      (fun t => xs = [] ∧ Abandoned rest (· = c.hostMem) t) := by
  induction before generalizing s with
  | nil =>
    rcases hx with rfl | ⟨reached, rfl⟩
    · exact ⟨undisturbed_nil hu, abandoned_takeReset rfl hc⟩
    · exact ⟨hb, hc, [], rfl, hu⟩
  | cons h hs ih =>
    rw [List.cons_append]
    cases h with
    | reply r => exact ⟨hb, hc, .reply r :: hs, rfl, hu⟩
    | access a => exact ⟨hb, hc, .access a :: hs, rfl, hu⟩
    | between b =>
      obtain ⟨hh, hbehind⟩ := undisturbed_other hu rfl
      cases b with
      | access a =>
        obtain ⟨values, hok, -⟩ := busyAccess_allowed (s := s) hh hb
        rw [attendOver, hok]
        exact ih hbehind hb hc
      | late =>
        have hcaller : caller (completeLate s) = caller s := by rw [(completeLate_gaps s).eq]; rfl
        refine ih hbehind ?_ (hcaller.trans hc)
        rw [(completeLate_gaps s).eq]
        exact hb
      | go => exact ⟨hb, hc, hs, rfl, hbehind⟩
      | reset => exact absurd hh Bool.false_ne_true

theorem attend_ahead (hx : assertsReset x) {s : State} (h : Ahead c x rest xs s) :
    (attend s).Goes (fun t => Gaps s t ∧ Ahead c x rest xs t)
      (fun t => xs = [] ∧ Abandoned rest (· = c.hostMem) t) := by
  obtain ⟨hb, hc, before, henv, hu⟩ := h
  refine Run.Goes.and_ends ?_ (attend_ends (fun _ => id) (fun _ _ => trivial))
  rw [attend, henv]
  exact attendOver_ahead hx hu hb hc

/-! ## One primitive -/

theorem transmit_ahead (hx : assertsReset x) (e : Outbound) {s : State} (h : Ahead c x rest xs s) :
    (transmit e s).Goes (fun t => ∃ y ys, xs = y :: ys ∧ Ahead c x rest ys t)
      (fun t => xs = [] ∧ Abandoned rest (· = c.hostMem) t) := by
  have hwait := await_ahead hx (s := clearDone s) h
  rw [transmit_eq]
  cases hw : await (clearDone s) <;> rw [hw] at hwait <;> simp only [Waited.Goes] at hwait
  case complete d a t =>
    obtain ⟨ys, hxs, ht⟩ := hwait
    exact ⟨_, ys, hxs, ht.congr (by simp) (by simp [caller]) (by simp)⟩
  case reset r t =>
    obtain ⟨hxs, he, hc⟩ := hwait
    have hcaller : caller (reachIf r e t) = caller t := by simp [caller]
    exact ⟨hxs, abandoned_takeReset (by simpa using he) (hcaller.trans hc)⟩

/-- The byte is the one that the answer names, if it names one. -/
def Delivers (y : Nat × Answer) (b : Byte) : Prop := ∀ v a, y.2 = .other v a → b = v

theorem inboundByte_delivers (y : Nat × Answer) (s : State) : Delivers y (inboundByte y.2 s) := by
  intro v a hy
  rw [hy]
  rfl

theorem receive_ahead (hx : assertsReset x) (k : AckFlag) (i : Option Word) {s : State}
    (h : Ahead c x rest xs s) (hbudget : inBudget c.retryBudget xs) :
    (receive k i s).Goes
      (fun t => ∃ y ys, xs = y :: ys ∧ Delivers y t.data ∧ Ahead c x rest ys t)
      (fun t => xs = [] ∧ Abandoned rest (· = c.hostMem) t) := by
  have hwait := await_ahead hx (s := requested k s) h
  rw [receive_eq]
  cases hw : await (requested k s) <;> rw [hw] at hwait <;> simp only [Waited.Goes] at hwait
  case complete d a t =>
    obtain ⟨ys, rfl, ht⟩ := hwait
    obtain ⟨-, hc, -⟩ := id ht
    obtain ⟨-, -, -, -, hretry⟩ := (caller_eq_iff t c).1 hc
    have hd : d < t.retryBudget.toNat := hretry ▸ hbudget (d, a) (List.mem_cons_self ..)
    rw [inboundEnd, poll_some, if_pos hd, if_pos rfl]
    refine ⟨(d, a), ys, rfl, ?_, ht.congr (by simp) (by simp [caller]) (by simp)⟩
    rw [acceptByte_data]
    exact inboundByte_delivers (d, a) t
  case reset r t =>
    obtain ⟨hxs, he, hc⟩ := hwait
    have hcaller : caller (readIf r t) = caller t := by simp [caller]
    exact ⟨hxs, abandoned_takeReset (by simpa using he) (hcaller.trans hc)⟩

end

/-! ## Runs of handshakes -/

/-- Wherever the reset is ahead, run `f` makes `n` handshakes, and is reset in or before the first of them
that no answer is left for. -/
def Takes (c : State) (x : Happening) (rest : List Happening) (n : Nat) (f : State → Run) : Prop :=
  ∀ xs s, Ahead c x rest xs s → (f s).Goes (fun t => n ≤ xs.length ∧ Ahead c x rest (xs.drop n) t)
    (fun t => xs.length < n ∧ Abandoned rest (· = c.hostMem) t)

section
variable {c : State} {x : Happening} {rest : List Happening} {m n : Nat} {f g : State → Run}

theorem Takes.ended : Takes c x rest 0 .ended := fun _ _ h => ⟨Nat.zero_le _, h⟩

theorem Takes.andThen (hf : Takes c x rest m f) (hg : Takes c x rest n g) :
    Takes c x rest (m + n) fun s => (f s).andThen g := by
  intro xs s h
  refine ((hf xs s h).mono (fun _ => id) fun t ht => ?_).andThen fun t ht => ?_
  · exact ⟨by omega, ht.2⟩
  · obtain ⟨hm, hahead⟩ := ht
    refine (hg (xs.drop m) t hahead).mono (fun u hu => ?_) fun u hu => ?_
    · rw [List.drop_drop, List.length_drop] at hu
      exact ⟨by omega, hu.2⟩
    · rw [List.length_drop] at hu
      exact ⟨by omega, hu.2⟩

/-- The gap before a run that makes a handshake. -/
theorem Takes.attend (hx : assertsReset x) (hn : 0 < n) (hf : Takes c x rest n f) :
    Takes c x rest n fun s => (attend s).andThen f := by
  intro xs s h
  refine ((attend_ahead hx h).mono (fun _ => id) fun t ht => ?_).andThen fun t ht => hf xs t ht.2
  obtain ⟨rfl, hreset⟩ := ht
  exact ⟨hn, hreset⟩

theorem transmit_takes (hx : assertsReset x) (e : Outbound) : Takes c x rest 1 (transmit e) := by
  intro xs s h
  refine (transmit_ahead hx e h).mono (fun t ht => ?_) fun t ht => ?_
  · obtain ⟨y, ys, rfl, hahead⟩ := ht
    exact ⟨by simp, hahead⟩
  · obtain ⟨rfl, hreset⟩ := ht
    exact ⟨Nat.one_pos, hreset⟩

theorem sendByte_takes (hx : assertsReset x) (b : Byte) : Takes c x rest 1 (sendByte b) :=
  fun xs s h => transmit_takes hx (.byte b) xs (setData b s) h

theorem pacedTransmit_takes (hx : assertsReset x) (e : Outbound) :
    Takes c x rest 1 (paced (transmit e)) := (transmit_takes hx e).attend hx Nat.one_pos

/-- The byte may depend on the state it is sent in. -/
theorem pacedSendByte_takes (hx : assertsReset x) (b : State → Byte) :
    Takes c x rest 1 fun s => paced (sendByte (b s)) s :=
  fun xs s h => (sendByte_takes hx (b s)).attend hx Nat.one_pos xs s h

theorem sendAddressBytes_takes (hx : assertsReset x) : Takes c x rest 3 sendAddressBytes :=
  (pacedSendByte_takes hx fun _ => writeIntent).andThen
    ((pacedSendByte_takes hx fun u => highByte u.addr).andThen
      (pacedSendByte_takes hx fun v => lowByte v.addr))

theorem writeBytes_takes (hx : assertsReset x) (n : Nat) : Takes c x rest n (writeBytes n) := by
  induction n with
  | zero => exact Takes.ended
  | succ n ih =>
    have hnext : Takes c x rest (1 + n) (writeBytes (n + 1)) :=
      (pacedSendByte_takes hx fun s => memRead (byteAddress s) s).andThen
        fun xs t h => ih xs (setIdx (t.idx + 1) t) h
    rwa [Nat.add_comm 1 n] at hnext

theorem afterWriteStart_takes (hx : assertsReset x) :
    Takes c x rest (3 + (c.ps.toNat + 1)) afterWriteStart := by
  refine (sendAddressBytes_takes hx).andThen (Takes.andThen (fun xs t h => ?_) fun xs u h =>
    pacedTransmit_takes hx .stop xs (setSeq 4 u) h)
  obtain ⟨-, hc, -⟩ := id h
  obtain ⟨-, -, -, hps, -⟩ := (caller_eq_iff t c).1 hc
  rw [hps]
  exact writeBytes_takes hx _ xs (setIdx 0 (setSeq 3 t)) h

theorem afterReadStart_takes (hx : assertsReset x) : Takes c x rest 6 afterReadStart :=
  (sendAddressBytes_takes hx).andThen ((pacedTransmit_takes hx .stop).andThen
    (Takes.andThen (m := 1) (fun xs u h => pacedTransmit_takes hx .start xs (setSeq 3 u) h)
      (pacedSendByte_takes hx fun _ => readIntent)))

/-- What a page command does up to the end of its first START. -/
def toStart (s : State) : Run :=
  (paced initialise (setSeq 1 s)).andThen fun r => paced (transmit .start) (translate (setSeq 2 r))

/-- INIT makes no handshake of its own, but there is a gap before it. -/
theorem toStart_takes (hx : assertsReset x) : Takes c x rest 1 toStart := by
  have hstart : Takes c x rest 1 fun s => paced (transmit .start) (translate (setSeq 2 (configure s))) :=
    fun xs s h => pacedTransmit_takes hx .start xs (translate (setSeq 2 (configure s))) h
  intro xs s h
  rw [toStart, paced, Run.andThen_assoc]
  exact hstart.attend hx Nat.one_pos xs (setSeq 1 s) h

end

/-! ## The page commands -/

theorem writePageBody_eq_toStart (s : State) : writePageBody s = (toStart s).andThen afterWriteStart := by
  rw [writePageBody, toStart, sendAddress]
  simp only [Run.andThen_assoc]
  refine congrArg _ (funext fun r => congrArg _ (funext fun t => ?_))
  simp only [afterWriteStart, sendAddressBytes, Run.andThen_assoc]

theorem readPageBody_eq_toStart (s : State) :
    readPageBody s = ((toStart s).andThen afterReadStart).andThen readBytesAndStop := by
  rw [readPageBody, toStart, sendAddress]
  simp only [afterReadStart, sendAddressBytes, Run.andThen_assoc]
  rfl

/-- Memory `m` is the one of `s` with the bytes of these answers stored from page byte `IDX` on. -/
def StoredFrom (s : State) (xs : List (Nat × Answer)) (m : Memory) : Prop :=
  ∃ bytes, bytes.length = xs.length ∧ givenBytes xs bytes ∧
    m = Memory.storePage (hostSize s) s.hostMem (byteAddress s) bytes

theorem storedFrom_nil (s : State) : StoredFrom s [] s.hostMem := ⟨[], rfl, by simp [givenBytes], rfl⟩

theorem givenBytes_cons {y : Nat × Answer} {ys : List (Nat × Answer)} {b : Byte} {bytes : List Byte}
    (hy : Delivers y b) (h : givenBytes ys bytes) : givenBytes (y :: ys) (b :: bytes) := by
  intro i d v a hi
  cases i with
  | zero =>
    obtain rfl : y = (d, .other v a) := by simpa using hi
    exact congrArg some (hy v a rfl)
  | succ i => exact h i d v a hi

/-- One byte stored, then those behind it. -/
theorem StoredFrom.cons {s t : State} {y : Nat × Answer} {ys : List (Nat × Answer)} {m : Memory}
    (hc : caller t = caller s) (hi : t.idx = s.idx) (hidx : s.idx.toNat + 1 < 65536)
    (hy : Delivers y t.data)
    (h : StoredFrom (setIdx (t.idx + 1) (memWrite (byteAddress t) t.data t)) ys m) :
    StoredFrom s (y :: ys) m := by
  obtain ⟨bytes, hl, hgiven, rfl⟩ := h
  obtain ⟨hmem, hwidth, hbuf, -, -⟩ := (caller_eq_iff t s).1 hc
  have haddr : byteAddress t = byteAddress s := by rw [byteAddress, hbuf, hi]; rfl
  have hsize : hostSize t = hostSize s := by rw [hostSize, hwidth]; rfl
  have hnext : byteAddress (setIdx (t.idx + 1) (memWrite (byteAddress t) t.data t)) = byteAddress s + 1 :=
    byteAddress_next hbuf (congrArg (· + 1) hi) hidx
  refine ⟨t.data :: bytes, by simp [hl], givenBytes_cons hy hgiven, ?_⟩
  rw [hnext, Memory.storePage, ← hmem, ← hsize, ← haddr]
  rfl

theorem pacedReceive_keepsIdx (k : AckFlag) (i : Option Word) (s : State) :
    (paced (receive k i) s).Ends (·.idx = s.idx) (fun _ => True) (fun _ => False) (fun _ => True) := by
  refine paced_ends (fun t hg => receive_ends (fun a d u hw _ => ?_) (fun _ _ _ _ _ _ => trivial)
    (fun _ _ _ => trivial)) (fun _ _ => trivial)
  rw [hw.eq, hg.eq]
  simp

section
variable {x : Happening} {rest : List Happening}

/-- One inbound byte of READ_PAGE, with the gap before it. -/
theorem pacedReceive_ahead (hx : assertsReset x) (k : AckFlag) (i : Option Word) {s : State}
    {xs : List (Nat × Answer)} (h : Ahead s x rest xs s) (hbudget : inBudget s.retryBudget xs) :
    (paced (receive k i) s).Goes
      (fun t => t.idx = s.idx ∧ ∃ y ys, xs = y :: ys ∧ Delivers y t.data ∧ Ahead s x rest ys t)
      (fun t => xs = [] ∧ Abandoned rest (· = s.hostMem) t) :=
  Run.Goes.and_ends ((attend_ahead hx h).andThen fun _ ht => receive_ahead hx k i ht.2 hbudget)
    (pacedReceive_keepsIdx k i s)

/-- An inbound byte that completes or is reset is not the one to abort READ_PAGE. -/
theorem Run.Goes.abortRead {E R : State → Prop} {y : Run} (n : Nat) (h : y.Goes E R) :
    (abortRead n y).Goes E R := by
  cases y <;> simp only [Run.Goes] at h <;> exact h

/-- Step 4 of READ_PAGE stores what arrives before the reset. -/
theorem readBytes_ahead (hx : assertsReset x) (n : Nat) {s : State} {xs : List (Nat × Answer)}
    (h : Ahead s x rest xs s) (hbudget : inBudget s.retryBudget xs) (hl : xs.length ≤ n)
    (hidx : s.idx.toNat + n < 65536) :
    (readBytes n s).Goes (fun t => StoredFrom s xs t.hostMem ∧ Ahead t x rest [] t)
      (Abandoned rest (StoredFrom s xs)) := by
  induction n generalizing s xs with
  | zero =>
    obtain rfl := List.length_eq_zero_iff.1 (Nat.le_zero.1 hl)
    exact ⟨storedFrom_nil s, h⟩
  | succ n ih =>
    rw [readBytes]
    refine (((pacedReceive_ahead hx (ackByPosition s) (some s.idx) h hbudget).abortRead (n + 1)).mono
      (fun _ => id) fun t ht => ?_).andThen fun t ht => ?_
    · obtain ⟨rfl, hreset, he, hmem⟩ := ht
      exact ⟨hreset, he, hmem ▸ storedFrom_nil s⟩
    · obtain ⟨hi, y, ys, rfl, hy, hbusy, hc, henv⟩ := ht
      obtain ⟨-, -, -, -, hretry⟩ := (caller_eq_iff t s).1 hc
      have hnext : (t.idx + 1).toNat = s.idx.toNat + 1 := by
        rw [hi, BitVec.toNat_add]
        exact Nat.mod_eq_of_lt (by simp; omega)
      have hcons : ∀ m, _ → StoredFrom s (y :: ys) m := fun m => StoredFrom.cons hc hi (by omega) hy
      refine (ih (s := setIdx (t.idx + 1) (memWrite (byteAddress t) t.data t)) ⟨hbusy, rfl, henv⟩ ?_
        (by simpa using hl) (by rw [setIdx_idx, hnext]; omega)).mono (fun u hu => ?_) fun u hu => ?_
      · exact fun z hz => hretry ▸ hbudget z (List.mem_cons_of_mem _ hz)
      · exact ⟨hcons _ hu.1, hu.2⟩
      · exact ⟨hu.1, hu.2.1, hcons _ hu.2.2⟩

theorem readBytesAndStop_ahead (hx : assertsReset x) {s : State} {xs : List (Nat × Answer)}
    (h : Ahead s x rest xs s) (hbudget : inBudget s.retryBudget xs) (hl : xs.length ≤ s.ps.toNat) :
    (readBytesAndStop s).Goes (fun _ => False)
      (Abandoned rest (StoredFrom (setIdx 0 s) xs)) := by
  refine (readBytes_ahead hx s.ps.toNat (s := setIdx 0 (setSeq 4 s)) h hbudget hl
    (by have := s.ps.isLt; simpa using this)).andThen fun t ht => ?_
  obtain ⟨hstored, hahead⟩ := ht
  refine (pacedTransmit_takes hx .stop [] (setSeq 5 t) hahead).mono (fun u hu => ?_) fun u hu => ?_
  · exact absurd hu.1 (by simp)
  · obtain ⟨-, hreset, he, hmem⟩ := hu
    exact ⟨hreset, he, hmem ▸ hstored⟩

/-- A primitive by hand is one handshake, in which the reset comes. -/
theorem body_abandoned (hx : assertsReset x) {i : Instr}
    (hi : i = .start ∨ i = .stop ∨ i = .writeByte ∨ ∃ k, i = .readByte k) (d : State) {s : State}
    (h : Ahead s x rest [] s) :
    (body i d s).Goes (fun _ => False) (Abandoned rest (· = s.hostMem)) := by
  have outbound : ∀ e u, Ahead s x rest [] u →
      (transmit e u).Goes (fun _ => False) (Abandoned rest (· = s.hostMem)) := fun e u hu =>
    (transmit_ahead hx e hu).mono (fun _ ⟨_, _, hnil, _⟩ => by cases hnil) fun _ ht => ht.2
  rcases hi with rfl | rfl | rfl | ⟨k, rfl⟩
  · exact outbound .start s h
  · exact outbound .stop s h
  · exact outbound (.byte d.data) (setData d.data s) h
  · exact (receive_ahead hx k none h (by simp [inBudget])).mono (fun _ ⟨_, _, hnil, _⟩ => by cases hnil)
      fun _ ht => ht.2

theorem writePageBody_abandoned (hx : assertsReset x) {s : State} {xs : List (Nat × Answer)}
    (h : Ahead s x rest xs s) (hl : xs.length < s.ps.toNat + 5) :
    (writePageBody s).Goes (fun _ => False) (Abandoned rest (· = s.hostMem)) := by
  rw [writePageBody_eq_toStart]
  refine ((toStart_takes hx).andThen (afterWriteStart_takes hx) xs s h).mono (fun t ht => ?_)
    fun _ ht => ht.2
  exact absurd ht.1 (by omega)

/-- READ_PAGE makes seven handshakes before its first inbound byte. -/
theorem readPage_takes {c : State} (hx : assertsReset x) :
    Takes c x rest (1 + 6) fun s => (toStart s).andThen afterReadStart :=
  (toStart_takes hx).andThen (afterReadStart_takes hx)

theorem readPageBody_abandoned (hx : assertsReset x) {s : State} {xs : List (Nat × Answer)}
    (h : Ahead s x rest xs s) (hl : xs.length < 7) :
    (readPageBody s).Goes (fun _ => False) (Abandoned rest (· = s.hostMem)) := by
  rw [readPageBody_eq_toStart]
  refine ((readPage_takes hx xs s h).mono (fun _ => id) fun _ ht => ht.2).andThen fun t ht => ?_
  exact absurd ht.1 (by omega)

theorem readPageBody_abandoned_reading (hx : assertsReset x) {s : State}
    {setup reads : List (Nat × Answer)} (h : Ahead s x rest (setup ++ reads) s)
    (hsetup : setup.length = 7) (hl : reads.length ≤ s.ps.toNat) (hbudget : inBudget s.retryBudget reads) :
    (readPageBody s).Goes (fun _ => False) (Abandoned rest (StoredFrom (setIdx 0 s) reads)) := by
  rw [readPageBody_eq_toStart]
  refine ((readPage_takes hx _ s h).mono (fun _ => id) fun t ht => ?_).andThen fun t ht => ?_
  · exact absurd ht.1 (by rw [List.length_append]; omega)
  · obtain ⟨-, hahead⟩ := ht
    rw [List.drop_append_of_le_length (by omega), List.drop_of_length_le (by omega), List.nil_append]
      at hahead
    obtain ⟨-, hc, -⟩ := id hahead
    obtain ⟨hmem, hwidth, hbuf, hps, hretry⟩ := (caller_eq_iff t s).1 hc
    refine (readBytesAndStop_ahead hx hahead.self (hretry ▸ hbudget) (hps ▸ hl)).mono (fun _ => id)
      fun u hu => ?_
    obtain ⟨hreset, he, bytes, hlength, hgiven, hstored⟩ := hu
    refine ⟨hreset, he, bytes, hlength, hgiven, hstored.trans ?_⟩
    simp only [setIdx_hostMem, hmem, hostSize, setIdx_hostAw, hwidth, byteAddress, setIdx_buf, hbuf,
      setIdx_idx]

end

/-- Launched with the schedule before it, a command has the reset ahead. -/
theorem launch_ahead (i : Instr) {s : State} {x : Happening} {before rest : List Happening}
    {xs : List (Nat × Answer)} (h : s.env = before ++ x :: rest) (hu : undisturbed xs before) :
    Ahead (launch i s) x rest xs (launch i s) := ⟨rfl, rfl, before, h, hu⟩

theorem exec_abandoned {i : Instr} {s : State} {rest : List Happening} {M : Memory → Prop}
    (hb : s.busy = false) (hm : missing i s = none)
    (h : (body i s (launch i s)).Goes (fun _ => False) (Abandoned rest M)) :
    ∃ t, exec i s = .next t ∧ atResetValues t ∧ t.env = rest ∧ M t.hostMem := by
  rw [exec_ready hb hm]
  exact h.outcome

/-- Settles O14: whatever harmless things come first, the reset falls in or before the first handshake that no
answer is left for. -/
theorem resetAbandonsTheCommand : Obligations.ResetAbandonsTheCommand := by
  unfold Obligations.ResetAbandonsTheCommand
  intro s x before rest hb hx henv
  refine ⟨fun i hi hm hu => ?_, fun answers hm hl hu => ?_, fun setup hm hl hu => ?_,
    fun setup reads hm hwf hsetup hl hbudget hu => ?_⟩
  · exact exec_abandoned hb hm (body_abandoned hx hi s (launch_ahead i henv hu))
  · exact exec_abandoned (i := .writePage) hb hm
      (writePageBody_abandoned hx (launch_ahead .writePage henv hu) hl)
  · exact exec_abandoned (i := .readPage) hb hm
      (readPageBody_abandoned hx (launch_ahead .readPage henv hu) hl)
  · obtain ⟨t, ht, hreset, he, bytes, hlength, hgiven, hmem⟩ :=
      exec_abandoned (i := .readPage) hb hm
        (readPageBody_abandoned_reading hx (launch_ahead .readPage henv hu) hsetup hl hbudget)
    have hstored : t.hostMem = Memory.storePage (hostSize s) s.hostMem s.buf bytes := hmem
    have hfits : bytes.length < hostSize s := hlength ▸ hl.trans_lt (needPage_fits hm)
    refine ⟨t, bytes, ht, hreset, he, hlength, hgiven, ?_⟩
    rw [hstored, ← hlength]
    exact ⟨pageAt_storePage hwf hfits,
      fun a ha => Memory.read_storePage_of_ne hwf (hostSize_pos s) ha⟩

end Sys2Proof.Machine
end
